-- ==== Sys2Proof/Word.lean ====
section
/-!
DEFINITION. The widths of the A6502 core: `DATA_WIDTH` = 8 and `ADDR_WIDTH` = 16 (spec/00_scope.md R5, R7).
-/
namespace Sys2Proof

/-- A register, data value or memory cell: 8 unsigned bits (R7). -/
abbrev Byte := BitVec 8

/-- The program counter and every address: 16 unsigned bits (R5, R50). -/
abbrev Addr := BitVec 16

end Sys2Proof
end

