-- ==== Sys2Proof/Machine/Params.lean ====
section
/-!
DEFINITION. The parameters of spec/00_scope.md R5 that have a value. The numerals are the spec's own decisions
(spec/92_eei_decisions.md D2, D3, D4, D6); UNVERIFIED, unsafe, log entry 2.
-/
namespace Sys2Proof.Machine

/-- `RESET_PC`: PC after reset and the address of the seeded opcode (R5, D2). -/
def resetPc : Addr := 0xFFFC

/-- `SP_RESET`: SP after reset (R5, D4). -/
def spReset : Byte := 0xFF

/-- `STACK_BASE`: the address of the first byte of the stack page (R5, spec/20_memory.md R59, D3). -/
def stackBase : Addr := 0x0100

/-- `SEED_OPCODE`: the byte reset writes at `RESET_PC`, the opcode of JMP absolute (R5, D6). -/
def seedOpcode : Byte := 0x4C

end Sys2Proof.Machine
end

