-- ==== Sys2Proof/Machine/Memory.lean ====
section
/-!
DEFINITION. The 65536 cells of `Mem` as plain data (spec/10_state.md R37): a list of the cells that differ from what
reset leaves there, strictly rising by address. The two operations are the only way to a cell.
-/
namespace Sys2Proof.Machine

/-- The cells that differ from their reset contents. Log entry 15. -/
abbrev Memory := List Host.Cell

/-- What an unlisted address reads as: the reset contents, the seed at `RESET_PC` and 0x00 elsewhere
(spec/10_state.md R41, spec/70_reset_and_hazards.md R240). -/
def memBackground (a : Nat) : Byte := if a = resetPc.toNat then seedOpcode else 0x00

/-- The byte listed at an address, or the background. -/
def cellAt (a : Nat) : Memory → Byte
  | [] => memBackground a
  | cell :: rest => if cell.1 = a then cell.2 else cellAt a rest

/-- Put a cell at its place in the rising order, in place of an entry for the same address. -/
def insertCell (a : Nat) (v : Byte) : Memory → Memory
  | [] => [(a, v)]
  | cell :: rest =>
    if a < cell.1 then (a, v) :: cell :: rest
    else if a = cell.1 then (a, v) :: rest
    else cell :: insertCell a v rest

/-- Take the entries for an address out. -/
def removeCell (a : Nat) : Memory → Memory
  | [] => []
  | cell :: rest => if cell.1 = a then removeCell a rest else cell :: removeCell a rest

/-- `Mem[a]` (spec/10_state.md R37). -/
def Memory.read (m : Memory) (a : Addr) : Byte := cellAt a.toNat m

/-- `Mem[a] <- v`, keeping the canonical form. -/
def Memory.write (m : Memory) (a : Addr) (v : Byte) : Memory :=
  if v = memBackground a.toNat then removeCell a.toNat m else insertCell a.toNat v m

/-- Addresses above `lo` strictly rising, inside the 65536 cells, and no entry equal to the background. -/
def canonicalAbove (lo : Nat) : Memory → Bool
  | [] => true
  | cell :: rest =>
    decide (lo ≤ cell.1) && decide (cell.1 < 65536) && decide (cell.2 ≠ memBackground cell.1) &&
      canonicalAbove (cell.1 + 1) rest

/-- The canonical form: equal memories are equal lists. -/
def Memory.wf (m : Memory) : Bool := canonicalAbove 0 m

end Sys2Proof.Machine
end

