-- ==== Sys2Proof/Machine/State.lean ====
section
/-!
DEFINITION. The state of the machine (spec/10_state.md R20) as plain data, the reasons a step can stop, and the state
after reset (R41).
-/
namespace Sys2Proof.Machine

/-- What the host can do at the boundary while no run is in progress (spec/00_scope.md R6,
spec/70_reset_and_hazards.md R243). Load is one byte an operation. -/
inductive HostOp where
  | reset
  | load (a : Addr) (v : Byte)
  | run
  | observe
  deriving DecidableEq, Repr

/-- One access of the core on the memory port: `mem_we` is 0 for a read, with the byte returned, and 1 for a write, with
the byte written (spec/00_scope.md R6, spec/20_memory.md R57). -/
inductive BusAccess where
  | read (a : Addr) (v : Byte)
  | write (a : Addr) (v : Byte)
  deriving DecidableEq, Repr

/-- The state tuple of R20 (`pc` to `running`), and three fields of the model's own that hold the inputs and outputs of
spec/00_scope.md R6 (log entries 7, 8, 9). -/
structure State where
  /-- `PC`, R24. -/
  pc : Addr
  /-- `SP`, R25. -/
  sp : Byte
  /-- `A`, R21. -/
  a : Byte
  /-- `X`, R22. -/
  x : Byte
  /-- `Y`, R23. -/
  y : Byte
  /-- Carry, R27. -/
  c : Bool
  /-- Zero, R28. -/
  z : Bool
  /-- Interrupt-disable, R29. -/
  i : Bool
  /-- Decimal, R30. -/
  d : Bool
  /-- Break, R31. -/
  b : Bool
  /-- Overflow, R32. -/
  v : Bool
  /-- Negative, R33. -/
  n : Bool
  /-- `Mem`, R37. -/
  mem : Memory
  /-- `CYC`, R35. -/
  cyc : Nat
  /-- `HALTED`, R36. -/
  halted : Bool
  /-- `HALT_OPCODE`, R36; meaningful while `halted`. -/
  haltOpcode : Byte
  /-- `RUNNING`, R36. -/
  running : Bool
  /-- The model's own: the samples of `cancel` to come, one per iteration top; no more listed reads as 0. Log entry 7. -/
  cancelIn : List Bool
  /-- The model's own: what the host does next while no run is in progress. Log entry 8. -/
  hostOps : List HostOp
  /-- The model's own: the accesses the core made in the last step, in order. Log entry 9. -/
  bus : List BusAccess
  deriving DecidableEq, Repr

/-- No step of this machine faults: "There is no fourth outcome" (spec/00_scope.md R10; spec/60_exceptions.md R211). The
type has no constructor, so that no one can raise one (safe; log entry 14). -/
inductive Fault where
  deriving DecidableEq, Repr

/-- Why an instruction has no meaning. -/
inductive Refusal where
  /-- Raised by an arm of `exec` whose instruction has no meaning yet: safe, the machine stops. No arm raises it. -/
  | notModelled (mnemonic : String)
  deriving DecidableEq, Repr

/-- The machine right after the reset operation: the table of R41. The last three fields are the model's own: the host
has asked for nothing, and no access was made (DESIGN CHOICE, log entries 7, 8, 9). -/
def State.reset : State where
  pc := resetPc
  sp := spReset
  a := 0x00
  x := 0x00
  y := 0x00
  c := false
  z := false
  i := false
  d := false
  b := false
  v := false
  n := false
  mem := []
  cyc := 0
  halted := false
  haltOpcode := 0x00
  running := false
  cancelIn := []
  hostOps := []
  bus := []

end Sys2Proof.Machine
end

