-- ==== Sys2Proof/Machine/Flags.lean ====
section
/-!
DEFINITION. The flag computations (spec/10_state.md R26 to R34, spec/42_arithmetic_logic.md R140, spec/43_shift.md R160).
I, D and B have none: no instruction writes them (R29, R30, R31).
-/
namespace Sys2Proof.Machine

/-- `v[7]`, the sign bit (spec/00_scope.md R7). -/
def bit7 (v : Byte) : Bool := v.getLsbD 7

/-- `SetZN(v)`: the single authority for Z and N (R34). -/
def State.setZN (s : State) (v : Byte) : State := { s with z := v == 0x00, n := bit7 v }

/-- `C <- k` (R27). -/
def State.setC (s : State) (k : Bool) : State := { s with c := k }

/-- `V <- k` (R32). -/
def State.setV (s : State) (k : Bool) : State := { s with v := k }

/-- `sum9`: the exact sum of R140, 0 to 511. -/
def sum9 (a op : Byte) (c : Bool) : Nat := a.toNat + op.toNat + c.toNat

/-- `res`: bits 7:0 of the sum (R140). -/
def adcResult (a op : Byte) (c : Bool) : Byte := BitVec.ofNat 8 (sum9 a op c)

/-- `C`: bit 8 of the sum (R140). -/
def adcCarry (a op : Byte) (c : Bool) : Bool := (sum9 a op c).testBit 8

/-- `V`: the operands' signs are equal and differ from the result's (R140; spec/90_conflicts.md C5). -/
def adcOverflow (a op : Byte) (c : Bool) : Bool :=
  bit7 a == bit7 op && bit7 (adcResult a op c) != bit7 a

/-- `res` of ASL: bits 7:0 of `v << 1` (R160). -/
def aslResult (v : Byte) : Byte := v <<< 1

/-- `C` of ASL: the bit shifted out, bit 7 of the value before (R160). -/
def aslCarry (v : Byte) : Bool := bit7 v

end Sys2Proof.Machine
end

