-- ==== Sys2Proof/Syntax.lean ====
section
/-!
DEFINITION. The instructions of the A6502 core as syntax: the nine operations, the nine mode tags and the 36 forms, one
constructor per row of spec/opcode_table.json (spec/30_encoding.md R86), each with the operand bytes of its format.
-/
namespace Sys2Proof

/-- The nine operations of the dispatcher (spec/00_scope.md R1, glossary "Operation"). -/
inductive Operation where
  | lda | ldx | ldy | adc | and | asl | jmp | jsr | rts
  deriving DecidableEq, Repr

/-- The closed set of nine mode tags of the resolver (spec/40_addressing_modes.md R100, R113). -/
inductive Mode where
  | imm | zp | zpx | zpy | abs | absx | absy | acc | imp
  deriving DecidableEq, Repr

/-- An instruction form with its operand bytes: none (format F1), `d8` (F2), or `lo8` and `hi8` in the order they
stand in memory (F3); spec/30_encoding.md R81, R82, R83. Every operand byte is legal (R87). -/
inductive Instr where
  /-- `LDA #$nn`, R121. -/
  | ldaImm (d8 : Byte)
  /-- `LDA $nn`, R122. -/
  | ldaZp (d8 : Byte)
  /-- `LDA $nn,X`, R123. -/
  | ldaZpx (d8 : Byte)
  /-- `LDA $nnnn`, R124. -/
  | ldaAbs (lo8 hi8 : Byte)
  /-- `LDA $nnnn,X`, R125. -/
  | ldaAbsx (lo8 hi8 : Byte)
  /-- `LDA $nnnn,Y`, R126. -/
  | ldaAbsy (lo8 hi8 : Byte)
  /-- `LDX #$nn`, R127. -/
  | ldxImm (d8 : Byte)
  /-- `LDX $nn`, R128. -/
  | ldxZp (d8 : Byte)
  /-- `LDX $nn,Y`, R129. -/
  | ldxZpy (d8 : Byte)
  /-- `LDX $nnnn`, R130. -/
  | ldxAbs (lo8 hi8 : Byte)
  /-- `LDX $nnnn,Y`, R131. -/
  | ldxAbsy (lo8 hi8 : Byte)
  /-- `LDY #$nn`, R132. -/
  | ldyImm (d8 : Byte)
  /-- `LDY $nn`, R133. -/
  | ldyZp (d8 : Byte)
  /-- `LDY $nn,X`, R134. -/
  | ldyZpx (d8 : Byte)
  /-- `LDY $nnnn`, R135. -/
  | ldyAbs (lo8 hi8 : Byte)
  /-- `LDY $nnnn,X`, R136. -/
  | ldyAbsx (lo8 hi8 : Byte)
  /-- `ADC #$nn`, R141. -/
  | adcImm (d8 : Byte)
  /-- `ADC $nn`, R142. -/
  | adcZp (d8 : Byte)
  /-- `ADC $nn,X`, R143. -/
  | adcZpx (d8 : Byte)
  /-- `ADC $nnnn`, R144. -/
  | adcAbs (lo8 hi8 : Byte)
  /-- `ADC $nnnn,X`, R145. -/
  | adcAbsx (lo8 hi8 : Byte)
  /-- `ADC $nnnn,Y`, R146. -/
  | adcAbsy (lo8 hi8 : Byte)
  /-- `AND #$nn`, R148. -/
  | andImm (d8 : Byte)
  /-- `AND $nn`, R149. -/
  | andZp (d8 : Byte)
  /-- `AND $nn,X`, R150. -/
  | andZpx (d8 : Byte)
  /-- `AND $nnnn`, R151. -/
  | andAbs (lo8 hi8 : Byte)
  /-- `AND $nnnn,X`, R152. -/
  | andAbsx (lo8 hi8 : Byte)
  /-- `AND $nnnn,Y`, R153. -/
  | andAbsy (lo8 hi8 : Byte)
  /-- `ASL A`, R161. -/
  | aslAcc
  /-- `ASL $nn`, R162. -/
  | aslZp (d8 : Byte)
  /-- `ASL $nn,X`, R163. -/
  | aslZpx (d8 : Byte)
  /-- `ASL $nnnn`, R164. -/
  | aslAbs (lo8 hi8 : Byte)
  /-- `ASL $nnnn,X`, R165. -/
  | aslAbsx (lo8 hi8 : Byte)
  /-- `JMP $nnnn`, R170. -/
  | jmpAbs (lo8 hi8 : Byte)
  /-- `JSR $nnnn`, R171. -/
  | jsrAbs (lo8 hi8 : Byte)
  /-- `RTS`, R172. -/
  | rtsImp
  deriving DecidableEq, Repr

/-- The operation of a form: the "mnemonic" column of R86. -/
def Instr.operation : Instr → Operation
  | .ldaImm _ | .ldaZp _ | .ldaZpx _ | .ldaAbs _ _ | .ldaAbsx _ _ | .ldaAbsy _ _ => .lda
  | .ldxImm _ | .ldxZp _ | .ldxZpy _ | .ldxAbs _ _ | .ldxAbsy _ _ => .ldx
  | .ldyImm _ | .ldyZp _ | .ldyZpx _ | .ldyAbs _ _ | .ldyAbsx _ _ => .ldy
  | .adcImm _ | .adcZp _ | .adcZpx _ | .adcAbs _ _ | .adcAbsx _ _ | .adcAbsy _ _ => .adc
  | .andImm _ | .andZp _ | .andZpx _ | .andAbs _ _ | .andAbsx _ _ | .andAbsy _ _ => .and
  | .aslAcc | .aslZp _ | .aslZpx _ | .aslAbs _ _ | .aslAbsx _ _ => .asl
  | .jmpAbs _ _ => .jmp
  | .jsrAbs _ _ => .jsr
  | .rtsImp => .rts

/-- The addressing mode of a form: the "mode" column of R86. -/
def Instr.mode : Instr → Mode
  | .ldaImm _ | .ldxImm _ | .ldyImm _ | .adcImm _ | .andImm _ => .imm
  | .ldaZp _ | .ldxZp _ | .ldyZp _ | .adcZp _ | .andZp _ | .aslZp _ => .zp
  | .ldaZpx _ | .ldyZpx _ | .adcZpx _ | .andZpx _ | .aslZpx _ => .zpx
  | .ldxZpy _ => .zpy
  | .ldaAbs _ _ | .ldxAbs _ _ | .ldyAbs _ _ | .adcAbs _ _ | .andAbs _ _ | .aslAbs _ _ => .abs
  | .jmpAbs _ _ | .jsrAbs _ _ => .abs
  | .ldaAbsx _ _ | .ldyAbsx _ _ | .adcAbsx _ _ | .andAbsx _ _ | .aslAbsx _ _ => .absx
  | .ldaAbsy _ _ | .ldxAbsy _ _ | .adcAbsy _ _ | .andAbsy _ _ => .absy
  | .aslAcc => .acc
  | .rtsImp => .imp

end Sys2Proof
end

