-- ==== Sys2Proof/Config.lean ====
section
/-!
DEFINITION. The free value of the model: the one parameter that spec/00_scope.md R5 marks OPEN.
-/
namespace Sys2Proof

/-- `ExtraCycles(operation, mode)`, "possibly also depending on whether the indexed address crossed a page"
(spec/46_execution_engine.md R199; spec/92_eei_decisions.md D7): the cycle-counter increments that are not memory
accesses. It has no body that a proof can see, so every statement holds whatever it is. DESIGN CHOICE (safe): the page
crossing is an argument. Log entry 6. -/
opaque Config.extraCycles (op : Operation) (mode : Mode) (pageCrossed : Bool) : Nat

end Sys2Proof
end

