-- ==== Sys2Proof/Machine/Ops.lean ====
section
/-!
DEFINITION. The primitives of spec/00_scope.md R9 over memory, the stack, the instruction stream and the cycle counter,
and the one abnormal condition, `raise Halt(b)`.
-/
namespace Sys2Proof.Machine

/-- `hi8:lo8` = `hi8 * 256 + lo8` (spec/00_scope.md R7). -/
def word (hi lo : Byte) : Addr := hi ++ lo

/-- `w[15:8]` (R7). -/
def hiByte (w : Addr) : Byte := w.extractLsb' 8 8

/-- `w[7:0]` (R7). -/
def loByte (w : Addr) : Byte := w.extractLsb' 0 8

/-- `zext_16(b)` (spec/00_scope.md R8). -/
def zext16 (v : Byte) : Addr := v.zeroExtend 16

/-- One access of the core: it counts one cycle (spec/20_memory.md R52, R53) and is seen on the memory port. -/
def State.access (s : State) (acc : BusAccess) : State := { s with cyc := s.cyc + 1, bus := s.bus ++ [acc] }

/-- `MemRead(a, 1)` (spec/20_memory.md R52). -/
def memRead (a : Addr) (s : State) : Byte × State := (s.mem.read a, s.access (.read a (s.mem.read a)))

/-- `Mem[a] <- v` without an access of the core: the cell write of R53 and of the host's Load (R71). -/
def State.setCell (s : State) (a : Addr) (v : Byte) : State := { s with mem := s.mem.write a v }

/-- `MemWrite(a, 1, v)` (spec/20_memory.md R53). -/
def memWrite (a : Addr) (v : Byte) (s : State) : State := (s.setCell a v).access (.write a v)

/-- `MemRead(a, 2)`: low byte first, the high byte from `(a + 1) mod 65536` (spec/20_memory.md R54). -/
def memReadWord (a : Addr) (s : State) : Addr × State :=
  let lo := memRead a s
  let hi := memRead (a + 1) lo.2
  (word hi.1 lo.1, hi.2)

/-- `PC <- w` (spec/10_state.md R24). -/
def State.setPc (s : State) (w : Addr) : State := { s with pc := w }

/-- `SP <- p` (spec/10_state.md R25). -/
def State.setSp (s : State) (p : Byte) : State := { s with sp := p }

/-- `A <- r` (spec/10_state.md R21). -/
def State.setA (s : State) (r : Byte) : State := { s with a := r }

/-- `X <- r` (spec/10_state.md R22). -/
def State.setX (s : State) (r : Byte) : State := { s with x := r }

/-- `Y <- r` (spec/10_state.md R23). -/
def State.setY (s : State) (r : Byte) : State := { s with y := r }

/-- The stack address `STACK_BASE + SP` (spec/10_state.md R25). -/
def stackAddr (sp : Byte) : Addr := stackBase + zext16 sp

/-- `Push(v)`: write, then decrement modulo 256 (spec/20_memory.md R60; the order is D5, log entry 3). -/
def push (v : Byte) (s : State) : State := (memWrite (stackAddr s.sp) v s).setSp (s.sp - 1)

/-- `Pull()`: increment modulo 256, then read (spec/20_memory.md R61; the order is D5, log entry 3). -/
def pull (s : State) : Byte × State := memRead (stackAddr (s.sp + 1)) (s.setSp (s.sp + 1))

/-- `PushWord(w)`: high byte first (spec/20_memory.md R62). -/
def pushWord (w : Addr) (s : State) : State := push (loByte w) (push (hiByte w) s)

/-- `PullWord()`: low byte first (spec/20_memory.md R63). -/
def pullWord (s : State) : Addr × State :=
  let lo := pull s
  let hi := pull lo.2
  (word hi.1 lo.1, hi.2)

/-- `FetchByte()`: read at PC, then `PC <- (PC + 1) mod 65536` (spec/46_execution_engine.md R191). -/
def fetchByte (s : State) : Byte × State :=
  let r := memRead s.pc s
  (r.1, r.2.setPc (s.pc + 1))

/-- `FetchWord()`: two fetches, low byte first (spec/46_execution_engine.md R191). -/
def fetchWord (s : State) : Addr × State :=
  let lo := fetchByte s
  let hi := fetchByte lo.2
  (word hi.1 lo.1, hi.2)

/-- `Extra(operation, mode)` (spec/46_execution_engine.md R199; the amount is free, log entry 6). -/
def extra (op : Operation) (mode : Mode) (pageCrossed : Bool) (s : State) : State :=
  { s with cyc := s.cyc + Config.extraCycles op mode pageCrossed }

/-- `raise Halt(b)`: the designed end of a run at an unrecognized opcode byte (spec/60_exceptions.md R210, R212; log
entry 4). PC has already passed the byte, and nothing else of the state is touched. -/
def raiseHalt (op : Byte) (s : State) : State := { s with halted := true, haltOpcode := op, running := false }

end Sys2Proof.Machine
end

