-- ==== Sys2Proof/Machine/Operands.lean ====
section
/-!
DEFINITION. The addressing-mode resolver (spec/40_addressing_modes.md R100 to R111): the effective address of each memory
mode from the operand bytes, which the step has fetched before (log entry 10), and the index register it reads.
-/
namespace Sys2Proof.Machine

/-- `ZP`: `zext_16(d8)` (R102). -/
def eaZp (d8 : Byte) : Addr := zext16 d8

/-- `ZPX`: `zext_16((d8 + X) mod 256)` (R103). -/
def eaZpx (d8 : Byte) (s : State) : Addr := zext16 (d8 + s.x)

/-- `ZPY`: `zext_16((d8 + Y) mod 256)` (R104). -/
def eaZpy (d8 : Byte) (s : State) : Addr := zext16 (d8 + s.y)

/-- `ABS`: `hi8:lo8` (R105); for JMP and JSR the target, with no read there (R111). -/
def eaAbs (lo8 hi8 : Byte) : Addr := word hi8 lo8

/-- `ABSX`: `(hi8:lo8 + zext_16(X)) mod 65536` (R106). -/
def eaAbsx (lo8 hi8 : Byte) (s : State) : Addr := word hi8 lo8 + zext16 s.x

/-- `ABSY`: `(hi8:lo8 + zext_16(Y)) mod 65536` (R107). -/
def eaAbsy (lo8 hi8 : Byte) (s : State) : Addr := word hi8 lo8 + zext16 s.y

/-- Whether the index addition carried into the high byte: the page crossing that `ExtraCycles` may depend on
(spec/46_execution_engine.md R199). -/
def pageCrossed (base ea : Addr) : Bool := hiByte base != hiByte ea

/-- The page crossing of an `ABSX` form. -/
def crossedX (lo8 hi8 : Byte) (s : State) : Bool := pageCrossed (eaAbs lo8 hi8) (eaAbsx lo8 hi8 s)

/-- The page crossing of an `ABSY` form. -/
def crossedY (lo8 hi8 : Byte) (s : State) : Bool := pageCrossed (eaAbs lo8 hi8) (eaAbsy lo8 hi8 s)

/-- `Operand(IMM)`: the operand byte itself; no address and no further access (R101, R110). -/
def operandImm (d8 : Byte) (s : State) : Byte × State := (d8, s)

/-- `Operand(mode)` of a memory mode: one byte read at the effective address (R110). -/
def operandAt (ea : Addr) (s : State) : Byte × State := memRead ea s

end Sys2Proof.Machine
end

