-- ==== Sys2Proof/Machine/Load.lean ====
section
/-!
DEFINITION. LDA, LDX and LDY (spec/41_load.md R120 to R136). A meaning starts after the step has fetched the
instruction's bytes, so PC already points past them (log entry 10).
-/
namespace Sys2Proof.Machine

/-- What a meaning answers. -/
abbrev Result := Host.Outcome State Fault Refusal

/-- `A <- v; SetZN(v); Extra(LDA, mode)` for an operand value and the state after it was read (R120). -/
def loadA (mode : Mode) (crossed : Bool) (r : Byte × State) : State :=
  extra .lda mode crossed ((r.2.setA r.1).setZN r.1)

/-- `X <- v; SetZN(v); Extra(LDX, mode)` (R120). -/
def loadX (mode : Mode) (crossed : Bool) (r : Byte × State) : State :=
  extra .ldx mode crossed ((r.2.setX r.1).setZN r.1)

/-- `Y <- v; SetZN(v); Extra(LDY, mode)` (R120). -/
def loadY (mode : Mode) (crossed : Bool) (r : Byte × State) : State :=
  extra .ldy mode crossed ((r.2.setY r.1).setZN r.1)

/-- `LDA #$nn` (R121). -/
def execLdaImm (d8 : Byte) (s : State) : Result := .next (loadA .imm false (operandImm d8 s))

/-- `LDA $nn` (R122). -/
def execLdaZp (d8 : Byte) (s : State) : Result := .next (loadA .zp false (operandAt (eaZp d8) s))

/-- `LDA $nn,X` (R123). -/
def execLdaZpx (d8 : Byte) (s : State) : Result := .next (loadA .zpx false (operandAt (eaZpx d8 s) s))

/-- `LDA $nnnn` (R124). -/
def execLdaAbs (lo8 hi8 : Byte) (s : State) : Result := .next (loadA .abs false (operandAt (eaAbs lo8 hi8) s))

/-- `LDA $nnnn,X` (R125). -/
def execLdaAbsx (lo8 hi8 : Byte) (s : State) : Result := .next (loadA .absx (crossedX lo8 hi8 s) (operandAt (eaAbsx lo8 hi8 s) s))

/-- `LDA $nnnn,Y` (R126). -/
def execLdaAbsy (lo8 hi8 : Byte) (s : State) : Result := .next (loadA .absy (crossedY lo8 hi8 s) (operandAt (eaAbsy lo8 hi8 s) s))

/-- `LDX #$nn` (R127). -/
def execLdxImm (d8 : Byte) (s : State) : Result := .next (loadX .imm false (operandImm d8 s))

/-- `LDX $nn` (R128). -/
def execLdxZp (d8 : Byte) (s : State) : Result := .next (loadX .zp false (operandAt (eaZp d8) s))

/-- `LDX $nn,Y` (R129). -/
def execLdxZpy (d8 : Byte) (s : State) : Result := .next (loadX .zpy false (operandAt (eaZpy d8 s) s))

/-- `LDX $nnnn` (R130). -/
def execLdxAbs (lo8 hi8 : Byte) (s : State) : Result := .next (loadX .abs false (operandAt (eaAbs lo8 hi8) s))

/-- `LDX $nnnn,Y` (R131). -/
def execLdxAbsy (lo8 hi8 : Byte) (s : State) : Result := .next (loadX .absy (crossedY lo8 hi8 s) (operandAt (eaAbsy lo8 hi8 s) s))

/-- `LDY #$nn` (R132). -/
def execLdyImm (d8 : Byte) (s : State) : Result := .next (loadY .imm false (operandImm d8 s))

/-- `LDY $nn` (R133). -/
def execLdyZp (d8 : Byte) (s : State) : Result := .next (loadY .zp false (operandAt (eaZp d8) s))

/-- `LDY $nn,X` (R134). -/
def execLdyZpx (d8 : Byte) (s : State) : Result := .next (loadY .zpx false (operandAt (eaZpx d8 s) s))

/-- `LDY $nnnn` (R135). -/
def execLdyAbs (lo8 hi8 : Byte) (s : State) : Result := .next (loadY .abs false (operandAt (eaAbs lo8 hi8) s))

/-- `LDY $nnnn,X` (R136). -/
def execLdyAbsx (lo8 hi8 : Byte) (s : State) : Result := .next (loadY .absx (crossedX lo8 hi8 s) (operandAt (eaAbsx lo8 hi8 s) s))

end Sys2Proof.Machine
end

