-- ==== Sys2Proof/Machine/ArithLogic.lean ====
section
/-!
DEFINITION. ADC and AND (spec/42_arithmetic_logic.md R140 to R153).
-/
namespace Sys2Proof.Machine

/-- ADC (R140): every A and C on the right is the value before the instruction; binary whatever D holds (D13, log
entry 18). -/
def addWithCarry (mode : Mode) (crossed : Bool) (r : Byte × State) : State :=
  let a := r.2.a
  let c := r.2.c
  let res := adcResult a r.1 c
  extra .adc mode crossed ((((r.2.setC (adcCarry a r.1 c)).setV (adcOverflow a r.1 c)).setA res).setZN res)

/-- AND (R147): `res <- A & op; A <- res; SetZN(res)`. -/
def bitwiseAnd (mode : Mode) (crossed : Bool) (r : Byte × State) : State :=
  let res := r.2.a &&& r.1
  extra .and mode crossed ((r.2.setA res).setZN res)

/-- `ADC #$nn` (R141). -/
def execAdcImm (d8 : Byte) (s : State) : Result := .next (addWithCarry .imm false (operandImm d8 s))

/-- `ADC $nn` (R142). -/
def execAdcZp (d8 : Byte) (s : State) : Result := .next (addWithCarry .zp false (operandAt (eaZp d8) s))

/-- `ADC $nn,X` (R143). -/
def execAdcZpx (d8 : Byte) (s : State) : Result := .next (addWithCarry .zpx false (operandAt (eaZpx d8 s) s))

/-- `ADC $nnnn` (R144). -/
def execAdcAbs (lo8 hi8 : Byte) (s : State) : Result := .next (addWithCarry .abs false (operandAt (eaAbs lo8 hi8) s))

/-- `ADC $nnnn,X` (R145). -/
def execAdcAbsx (lo8 hi8 : Byte) (s : State) : Result := .next (addWithCarry .absx (crossedX lo8 hi8 s) (operandAt (eaAbsx lo8 hi8 s) s))

/-- `ADC $nnnn,Y` (R146). -/
def execAdcAbsy (lo8 hi8 : Byte) (s : State) : Result := .next (addWithCarry .absy (crossedY lo8 hi8 s) (operandAt (eaAbsy lo8 hi8 s) s))

/-- `AND #$nn` (R148). -/
def execAndImm (d8 : Byte) (s : State) : Result := .next (bitwiseAnd .imm false (operandImm d8 s))

/-- `AND $nn` (R149). -/
def execAndZp (d8 : Byte) (s : State) : Result := .next (bitwiseAnd .zp false (operandAt (eaZp d8) s))

/-- `AND $nn,X` (R150). -/
def execAndZpx (d8 : Byte) (s : State) : Result := .next (bitwiseAnd .zpx false (operandAt (eaZpx d8 s) s))

/-- `AND $nnnn` (R151). -/
def execAndAbs (lo8 hi8 : Byte) (s : State) : Result := .next (bitwiseAnd .abs false (operandAt (eaAbs lo8 hi8) s))

/-- `AND $nnnn,X` (R152). -/
def execAndAbsx (lo8 hi8 : Byte) (s : State) : Result := .next (bitwiseAnd .absx (crossedX lo8 hi8 s) (operandAt (eaAbsx lo8 hi8 s) s))

/-- `AND $nnnn,Y` (R153). -/
def execAndAbsy (lo8 hi8 : Byte) (s : State) : Result := .next (bitwiseAnd .absy (crossedY lo8 hi8 s) (operandAt (eaAbsy lo8 hi8 s) s))

end Sys2Proof.Machine
end

