-- ==== Sys2Proof/Machine/ControlFlow.lean ====
section
/-!
DEFINITION. JMP, JSR and RTS (spec/44_control_flow.md R170 to R172).
-/
namespace Sys2Proof.Machine

/-- `JMP $nnnn` (R170): the byte at the target is not read. -/
def execJmpAbs (lo8 hi8 : Byte) (s : State) : Result := .next (extra .jmp .abs false (s.setPc (eaAbs lo8 hi8)))

/-- `JSR $nnnn` (R171): PC stands at the next instruction, so `(PC - 1) mod 65536` is the address of the JSR's own last
byte; it is pushed high byte first. Both operand bytes were fetched before the pushes (D12, log entry 5). -/
def execJsrAbs (lo8 hi8 : Byte) (s : State) : Result :=
  .next (extra .jsr .abs false ((pushWord (s.pc - 1) s).setPc (eaAbs lo8 hi8)))

/-- `RTS` (R172): `w <- PullWord(); PC <- (w + 1) mod 65536`. -/
def execRtsImp (s : State) : Result :=
  let r := pullWord s
  .next (extra .rts .imp false (r.2.setPc (r.1 + 1)))

end Sys2Proof.Machine
end

