-- ==== Sys2Proof/Machine/Shift.lean ====
section
/-!
DEFINITION. ASL (spec/43_shift.md R160 to R165).
-/
namespace Sys2Proof.Machine

/-- ASL on memory (R160): one read and one write at the ONE effective address the resolver computed, never one derived
from PC (spec/90_conflicts.md C6), and no write of the unshifted value (D12, log entry 5). -/
def shiftMemory (mode : Mode) (crossed : Bool) (ea : Addr) (s : State) : State :=
  let r := operandAt ea s
  let res := aslResult r.1
  extra .asl mode crossed (memWrite ea res ((r.2.setC (aslCarry r.1)).setZN res))

/-- `ASL A` (R161): no access, A is source and destination (spec/40_addressing_modes.md R108). -/
def execAslAcc (s : State) : Result :=
  .next (extra .asl .acc false (((s.setC (aslCarry s.a)).setA (aslResult s.a)).setZN (aslResult s.a)))

/-- `ASL $nn` (R162). -/
def execAslZp (d8 : Byte) (s : State) : Result := .next (shiftMemory .zp false (eaZp d8) s)

/-- `ASL $nn,X` (R163). -/
def execAslZpx (d8 : Byte) (s : State) : Result := .next (shiftMemory .zpx false (eaZpx d8 s) s)

/-- `ASL $nnnn` (R164). -/
def execAslAbs (lo8 hi8 : Byte) (s : State) : Result := .next (shiftMemory .abs false (eaAbs lo8 hi8) s)

/-- `ASL $nnnn,X` (R165). -/
def execAslAbsx (lo8 hi8 : Byte) (s : State) : Result := .next (shiftMemory .absx (crossedX lo8 hi8 s) (eaAbsx lo8 hi8 s) s)

end Sys2Proof.Machine
end

