-- ==== Sys2Proof/Machine/Dispatch.lean ====
section
/-!
DEFINITION. The dispatcher (spec/46_execution_engine.md R192): one arm per instruction form, each one call of its meaning.
-/
namespace Sys2Proof.Machine

def exec (i : Instr) (s : State) : Host.Outcome State Fault Refusal :=
  match i with
  | .ldaImm d8 => Sys2Proof.Machine.execLdaImm d8 s
  | .ldaZp d8 => Sys2Proof.Machine.execLdaZp d8 s
  | .ldaZpx d8 => Sys2Proof.Machine.execLdaZpx d8 s
  | .ldaAbs lo8 hi8 => Sys2Proof.Machine.execLdaAbs lo8 hi8 s
  | .ldaAbsx lo8 hi8 => Sys2Proof.Machine.execLdaAbsx lo8 hi8 s
  | .ldaAbsy lo8 hi8 => Sys2Proof.Machine.execLdaAbsy lo8 hi8 s
  | .ldxImm d8 => Sys2Proof.Machine.execLdxImm d8 s
  | .ldxZp d8 => Sys2Proof.Machine.execLdxZp d8 s
  | .ldxZpy d8 => Sys2Proof.Machine.execLdxZpy d8 s
  | .ldxAbs lo8 hi8 => Sys2Proof.Machine.execLdxAbs lo8 hi8 s
  | .ldxAbsy lo8 hi8 => Sys2Proof.Machine.execLdxAbsy lo8 hi8 s
  | .ldyImm d8 => Sys2Proof.Machine.execLdyImm d8 s
  | .ldyZp d8 => Sys2Proof.Machine.execLdyZp d8 s
  | .ldyZpx d8 => Sys2Proof.Machine.execLdyZpx d8 s
  | .ldyAbs lo8 hi8 => Sys2Proof.Machine.execLdyAbs lo8 hi8 s
  | .ldyAbsx lo8 hi8 => Sys2Proof.Machine.execLdyAbsx lo8 hi8 s
  | .adcImm d8 => Sys2Proof.Machine.execAdcImm d8 s
  | .adcZp d8 => Sys2Proof.Machine.execAdcZp d8 s
  | .adcZpx d8 => Sys2Proof.Machine.execAdcZpx d8 s
  | .adcAbs lo8 hi8 => Sys2Proof.Machine.execAdcAbs lo8 hi8 s
  | .adcAbsx lo8 hi8 => Sys2Proof.Machine.execAdcAbsx lo8 hi8 s
  | .adcAbsy lo8 hi8 => Sys2Proof.Machine.execAdcAbsy lo8 hi8 s
  | .andImm d8 => Sys2Proof.Machine.execAndImm d8 s
  | .andZp d8 => Sys2Proof.Machine.execAndZp d8 s
  | .andZpx d8 => Sys2Proof.Machine.execAndZpx d8 s
  | .andAbs lo8 hi8 => Sys2Proof.Machine.execAndAbs lo8 hi8 s
  | .andAbsx lo8 hi8 => Sys2Proof.Machine.execAndAbsx lo8 hi8 s
  | .andAbsy lo8 hi8 => Sys2Proof.Machine.execAndAbsy lo8 hi8 s
  | .aslAcc => Sys2Proof.Machine.execAslAcc s
  | .aslZp d8 => Sys2Proof.Machine.execAslZp d8 s
  | .aslZpx d8 => Sys2Proof.Machine.execAslZpx d8 s
  | .aslAbs lo8 hi8 => Sys2Proof.Machine.execAslAbs lo8 hi8 s
  | .aslAbsx lo8 hi8 => Sys2Proof.Machine.execAslAbsx lo8 hi8 s
  | .jmpAbs lo8 hi8 => Sys2Proof.Machine.execJmpAbs lo8 hi8 s
  | .jsrAbs lo8 hi8 => Sys2Proof.Machine.execJsrAbs lo8 hi8 s
  | .rtsImp => Sys2Proof.Machine.execRtsImp s

end Sys2Proof.Machine
end

