-- ==== Sys2Proof/WellFormed.lean ====
section
/-!
DEFINITION. Which (operation, mode) pairs are instructions of the core: spec/30_encoding.md R86, with the narrowing of
spec/90_conflicts.md C8 (no LDA zero-page,Y, no LDX zero-page,X and so on). A form outside the list is "refuse" in
spec/93_implementation_defined.md U12. Operand bytes need no check: any byte is legal (R87).
-/
namespace Sys2Proof

/-- The modes in which an operation has an opcode byte (R86). -/
def Operation.modes : Operation → List Mode
  | .lda | .adc | .and => [.imm, .zp, .zpx, .abs, .absx, .absy]
  | .ldx => [.imm, .zp, .zpy, .abs, .absy]
  | .ldy => [.imm, .zp, .zpx, .abs, .absx]
  | .asl => [.acc, .zp, .zpx, .abs, .absx]
  | .jmp | .jsr => [.abs]
  | .rts => [.imp]

/-- Whether the pair is one of the 36 of R86. -/
def supported (op : Operation) (mode : Mode) : Bool := op.modes.contains mode

/-- A form is well-formed when its (operation, mode) pair is one of R86. -/
def Instr.wellFormed (i : Instr) : Bool := supported i.operation i.mode

end Sys2Proof
end

