-- ==== Sys2Proof/Decode.lean ====
section
/-!
DEFINITION. The decoder and the encoder: spec/30_encoding.md R80 to R92. The opcode bytes are the table of R86, which the
spec takes from general knowledge of the 6502 (spec/92_eei_decisions.md D1; UNVERIFIED, unsafe, log entry 1).
-/
namespace Sys2Proof

/-- The operand bytes a mode tag consumes: 0, 1 or 2 (spec/40_addressing_modes.md R114). -/
def Mode.operandBytes : Mode → Nat
  | .imm | .zp | .zpx | .zpy => 1
  | .abs | .absx | .absy => 2
  | .acc | .imp => 0

/-- The length in bytes of a form: its opcode byte and its operand bytes (spec/30_encoding.md R80, R84). -/
def Instr.length (i : Instr) : Nat := 1 + i.mode.operandBytes

/-- The three instruction formats, each holding the form it selects as a function of the operand bytes: F1 one byte
(R81), F2 opcode and `d8` (R82), F3 opcode, `lo8` and `hi8` (R83). -/
inductive Format where
  | f1 (form : Instr)
  | f2 (form : Byte → Instr)
  | f3 (form : Byte → Byte → Instr)

/-- The rows of R86 for LDA, LDX and LDY. -/
def loadRows : List (Byte × Format) :=
  [ (0xA9, .f2 .ldaImm), (0xA5, .f2 .ldaZp), (0xB5, .f2 .ldaZpx), (0xAD, .f3 .ldaAbs), (0xBD, .f3 .ldaAbsx),
    (0xB9, .f3 .ldaAbsy),
    (0xA2, .f2 .ldxImm), (0xA6, .f2 .ldxZp), (0xB6, .f2 .ldxZpy), (0xAE, .f3 .ldxAbs), (0xBE, .f3 .ldxAbsy),
    (0xA0, .f2 .ldyImm), (0xA4, .f2 .ldyZp), (0xB4, .f2 .ldyZpx), (0xAC, .f3 .ldyAbs), (0xBC, .f3 .ldyAbsx) ]

/-- The rows of R86 for ADC and AND. -/
def arithmeticRows : List (Byte × Format) :=
  [ (0x69, .f2 .adcImm), (0x65, .f2 .adcZp), (0x75, .f2 .adcZpx), (0x6D, .f3 .adcAbs), (0x7D, .f3 .adcAbsx),
    (0x79, .f3 .adcAbsy),
    (0x29, .f2 .andImm), (0x25, .f2 .andZp), (0x35, .f2 .andZpx), (0x2D, .f3 .andAbs), (0x3D, .f3 .andAbsx),
    (0x39, .f3 .andAbsy) ]

/-- The rows of R86 for ASL, JMP, JSR and RTS. -/
def shiftAndControlRows : List (Byte × Format) :=
  [ (0x0A, .f1 .aslAcc), (0x06, .f2 .aslZp), (0x16, .f2 .aslZpx), (0x0E, .f3 .aslAbs), (0x1E, .f3 .aslAbsx),
    (0x4C, .f3 .jmpAbs), (0x20, .f3 .jsrAbs), (0x60, .f1 .rtsImp) ]

/-- `OPCODE_TABLE`: the 36 rows of R86. -/
def opcodeTable : List (Byte × Format) := loadRows ++ arithmeticRows ++ shiftAndControlRows

/-- The first row of a table whose opcode byte is `b`. -/
def lookupOpcode (b : Byte) : List (Byte × Format) → Option Format
  | [] => none
  | row :: rows => if row.1 = b then some row.2 else lookupOpcode b rows

/-- `Decode(b)`: `Recognized` with the format of the row, or `Unrecognized` (R91). It reads the opcode byte alone. -/
def decodeOpcode (b : Byte) : Option Format := lookupOpcode b opcodeTable

/-- Why a list of bytes is not an instruction. -/
inductive DecodeError where
  /-- The first byte is none of the 36 opcodes (R87). -/
  | unrecognizedOpcode (b : Byte)
  /-- The list ends before the instruction does. No memory is such a list: addresses wrap (R92). Log entry 16. -/
  | truncated
  deriving DecidableEq, Repr

/-- Decode one instruction from the front of a list of bytes; the rest of the list is returned. -/
def decode : List Byte → Except DecodeError (Instr × List Byte)
  | [] => .error .truncated
  | b :: rest =>
    match decodeOpcode b, rest with
    | none, _ => .error (.unrecognizedOpcode b)
    | some (.f1 form), rest => .ok (form, rest)
    | some (.f2 form), d8 :: rest => .ok (form d8, rest)
    | some (.f3 form), lo8 :: hi8 :: rest => .ok (form lo8 hi8, rest)
    | some (.f2 _), [] => .error .truncated
    | some (.f3 _), [] => .error .truncated
    | some (.f3 _), [_] => .error .truncated

/-- The opcode byte of a form, written from the second table of R86 (sorted by byte value). -/
def Instr.opcode : Instr → Byte
  | .aslZp _ => 0x06 | .aslAcc => 0x0A | .aslAbs _ _ => 0x0E | .aslZpx _ => 0x16 | .aslAbsx _ _ => 0x1E
  | .jsrAbs _ _ => 0x20 | .andZp _ => 0x25 | .andImm _ => 0x29 | .andAbs _ _ => 0x2D | .andZpx _ => 0x35
  | .andAbsy _ _ => 0x39 | .andAbsx _ _ => 0x3D | .jmpAbs _ _ => 0x4C | .rtsImp => 0x60
  | .adcZp _ => 0x65 | .adcImm _ => 0x69 | .adcAbs _ _ => 0x6D | .adcZpx _ => 0x75 | .adcAbsy _ _ => 0x79
  | .adcAbsx _ _ => 0x7D
  | .ldyImm _ => 0xA0 | .ldxImm _ => 0xA2 | .ldyZp _ => 0xA4 | .ldaZp _ => 0xA5 | .ldxZp _ => 0xA6
  | .ldaImm _ => 0xA9 | .ldyAbs _ _ => 0xAC | .ldaAbs _ _ => 0xAD | .ldxAbs _ _ => 0xAE
  | .ldyZpx _ => 0xB4 | .ldaZpx _ => 0xB5 | .ldxZpy _ => 0xB6 | .ldaAbsy _ _ => 0xB9
  | .ldyAbsx _ _ => 0xBC | .ldaAbsx _ _ => 0xBD | .ldxAbsy _ _ => 0xBE

/-- The operand bytes of a form in memory order (R81, R82, R83). -/
def Instr.operands : Instr → List Byte
  | .aslAcc | .rtsImp => []
  | .ldaImm d8 | .ldaZp d8 | .ldaZpx d8 | .ldxImm d8 | .ldxZp d8 | .ldxZpy d8 | .ldyImm d8 | .ldyZp d8 | .ldyZpx d8 => [d8]
  | .adcImm d8 | .adcZp d8 | .adcZpx d8 | .andImm d8 | .andZp d8 | .andZpx d8 | .aslZp d8 | .aslZpx d8 => [d8]
  | .ldaAbs lo8 hi8 | .ldaAbsx lo8 hi8 | .ldaAbsy lo8 hi8 | .ldxAbs lo8 hi8 | .ldxAbsy lo8 hi8 => [lo8, hi8]
  | .ldyAbs lo8 hi8 | .ldyAbsx lo8 hi8 | .adcAbs lo8 hi8 | .adcAbsx lo8 hi8 | .adcAbsy lo8 hi8 => [lo8, hi8]
  | .andAbs lo8 hi8 | .andAbsx lo8 hi8 | .andAbsy lo8 hi8 | .aslAbs lo8 hi8 | .aslAbsx lo8 hi8 => [lo8, hi8]
  | .jmpAbs lo8 hi8 | .jsrAbs lo8 hi8 => [lo8, hi8]

/-- The bytes of a form, opcode byte first, at rising addresses (R80). -/
def encode (i : Instr) : List Byte := i.opcode :: i.operands

/-- The bytes of an instruction given as one number, bit 0 the least significant bit of the first byte. Bits from `nbits`
up are 0, and three bytes are answered, the longest instruction (R80). -/
def tableBytes (nbits w : Nat) : List Byte :=
  let u := w % 2 ^ nbits
  [BitVec.ofNat 8 u, BitVec.ofNat 8 (u / 256), BitVec.ofNat 8 (u / 65536)]

/-- The instruction the decoder reads from the bits `w` of a row of spec/opcode_table.json. -/
def decodeTableWord (nbits w : Nat) : Option Instr :=
  match decode (tableBytes nbits w) with
  | .ok (i, _) => some i
  | .error _ => none

end Sys2Proof
end

