-- ==== Sys2Proof/Machine/Fetch.lean ====
section
/-!
DEFINITION. The fetch unit on one instruction (spec/46_execution_engine.md R191, R203): the opcode byte, then as many operand
bytes as its format has, and no byte beyond the instruction's last.
-/
namespace Sys2Proof.Machine

/-- What the fetch of one instruction finds, with the state after it. -/
inductive Fetched where
  | recognized (i : Instr) (s : State)
  | unrecognized (op : Byte) (s : State)

/-- Fetch and decode at PC. Of an unrecognized opcode only the opcode byte is fetched (spec/60_exceptions.md R212). -/
def fetchInstr (s : State) : Fetched :=
  let op := fetchByte s
  match decodeOpcode op.1 with
  | none => .unrecognized op.1 op.2
  | some (.f1 form) => .recognized form op.2
  | some (.f2 form) =>
    let d8 := fetchByte op.2
    .recognized (form d8.1) d8.2
  | some (.f3 form) =>
    let lo8 := fetchByte op.2
    let hi8 := fetchByte lo8.2
    .recognized (form lo8.1 hi8.1) hi8.2

/-- The byte at offset `k` from PC; addresses wrap (spec/30_encoding.md R92). -/
def State.instrByte (s : State) (k : Nat) : Byte := s.mem.read (s.pc + BitVec.ofNat 16 k)

/-- The three bytes at PC: as many as the longest instruction has (R80). -/
def State.instrBytes (s : State) : List Byte := [s.instrByte 0, s.instrByte 1, s.instrByte 2]

end Sys2Proof.Machine
end

