-- ==== Sys2Proof/Machine/Engine.lean ====
section
/-!
DEFINITION. The Execution Engine around the dispatcher: the top of an iteration, cancellation, the start of a run, and the
host's operations in `S_IDLE` (spec/46_execution_engine.md R190 to R202, spec/70_reset_and_hazards.md R240 to R243).
-/
namespace Sys2Proof.Machine

/-- The `cancel` input as sampled at this iteration top; no sample listed reads as 0 (R196; log entry 7). -/
def State.cancelSampled (s : State) : Bool := s.cancelIn.headD false

/-- The top of an iteration (`S_CHECK`): the sample is used up, never remembered (R196), and the memory port shows no
access yet. -/
def State.beginIteration (s : State) : State := { s with cancelIn := s.cancelIn.tail, bus := [] }

/-- The end of a run as `Cancelled`: `RUNNING <- 0` and nothing else (R196). -/
def endCancelled (s : State) : State := { s with running := false }

/-- The start of a run: `CYC <- 0; HALTED <- 0; RUNNING <- 1`, nothing else (R194; D9, log entry 20). -/
def startRun (s : State) : State := { s with cyc := 0, halted := false, running := true }

/-- The reset operation: any state becomes that of the table R41, memory included (spec/70_reset_and_hazards.md R240).
What the host will do next is the host's and stays (log entry 8). -/
def hostReset (s : State) : State := { State.reset with cancelIn := s.cancelIn, hostOps := s.hostOps }

/-- One operation of the host (spec/70_reset_and_hazards.md R243). Load goes to the cell directly and counts no cycle
(spec/20_memory.md R71); Observe changes nothing. -/
def hostDo (op : HostOp) (s : State) : State :=
  match op with
  | .reset => hostReset s
  | .load a v => s.setCell a v
  | .run => startRun s
  | .observe => s

/-- A step in `S_IDLE`: the host's next operation, or nothing (R193). The core makes no access. -/
def idleStep (s : State) : State :=
  match s.hostOps with
  | [] => { s with bus := [] }
  | op :: ops => hostDo op { s with hostOps := ops, bus := [] }

/-- The outputs that carry the halt report and the count at every time (spec/00_scope.md R6). -/
structure Outputs where
  running : Bool
  halted : Bool
  haltOpcode : Byte
  cycles : Nat
  deriving DecidableEq, Repr

/-- `running`, `halted`, `halt_opcode`, `cycles` (spec/00_scope.md R6). -/
def State.outputs (s : State) : Outputs where
  running := s.running
  halted := s.halted
  haltOpcode := s.haltOpcode
  cycles := s.cyc

/-- The registers and flags as `obs_pc` to `obs_n` show them (spec/00_scope.md R6). -/
structure Observation where
  pc : Addr
  sp : Byte
  a : Byte
  x : Byte
  y : Byte
  c : Bool
  z : Bool
  i : Bool
  d : Bool
  b : Bool
  v : Bool
  n : Bool
  deriving DecidableEq, Repr

/-- Observe: the registers and flags, readable whenever `running` is 0 (spec/00_scope.md R6). -/
def State.observe (s : State) : Option Observation :=
  if s.running then none
  else some { pc := s.pc, sp := s.sp, a := s.a, x := s.x, y := s.y,
              c := s.c, z := s.z, i := s.i, d := s.d, b := s.b, v := s.v, n := s.n }

/-- Observe on a memory cell: read directly, no access of the core (spec/20_memory.md R71). -/
def State.observeCell (s : State) (a : Addr) : Option Byte := if s.running then none else some (s.mem.read a)

/-- The result a run delivers to the host, with its cycle count (spec/46_execution_engine.md R195, R200). -/
inductive RunResult where
  | halt (op : Byte) (cycles : Nat)
  | cancelled (cycles : Nat)
  deriving DecidableEq, Repr

/-- The result delivered by a step from `s` to `t`: one, exactly when the step ends a run (R195). -/
def runResult (s t : State) : Option RunResult :=
  if s.running && !t.running then
    some (if t.halted then .halt t.haltOpcode t.cyc else .cancelled t.cyc)
  else none

end Sys2Proof.Machine
end

