-- ==== Sys2Proof/Machine/Step.lean ====
section
/-!
DEFINITION. One step of the combined core and host boundary (spec/46_execution_engine.md R190, R193): in a run, from one
`S_CHECK` to the next or to `S_IDLE`; between runs, one operation of the host. The named inner states are collapsed, which
R193 allows (log entry 11).
-/
namespace Sys2Proof.Machine

/-- One iteration past the cancellation check: fetch, decode, dispatch, or the halt (R190). -/
def iterate (s : State) : Host.Outcome State Fault Refusal :=
  match fetchInstr s with
  | .recognized i t => exec i t
  | .unrecognized op t => .next (raiseHalt op t)

/-- One step (R190, R193, R215: `cancel` is sampled before anything is fetched). -/
def step (s : State) : Host.Outcome State Fault Refusal :=
  match s.running, s.cancelSampled with
  | false, _ => .next (idleStep s)
  | true, true => .next (endCancelled s.beginIteration)
  | true, false => iterate s.beginIteration

/-- Put bytes at rising addresses, modulo 65536. -/
def State.setCells (s : State) (a : Addr) : List Byte → State
  | [] => s
  | v :: vs => (s.setCell a v).setCells (a + 1) vs

/-- The state whose next step runs the instruction with the bits `w`: its bytes stand at PC, a run is in progress, and
the next sample of `cancel` is 0 (log entry 12). -/
def State.withFetchWord (s : State) (nbits w : Nat) : State :=
  { s.setCells s.pc (tableBytes nbits w) with running := true, cancelIn := false :: s.cancelIn }

end Sys2Proof.Machine
end

