-- ==== Sys2Proof/Safety.lean ====
section
/-!
DEFINITION. What counts as a good state and what an instruction may write, in the terms the statements use.
-/
namespace Sys2Proof.Machine

/-- The invariant of the machine. Memory is in canonical form. `HALTED` and `RUNNING` are never both 1, and while
`HALTED` is 1, `HALT_OPCODE` is an unrecognized opcode (spec/10_state.md R36, spec/60_exceptions.md R210). Z and N are
never both 1 (spec/10_state.md R34). I, D and B are 0 (R29, R30, R31). SP differs from its reset value by a multiple of
two (R25). A step makes at most 5 accesses (spec/70_reset_and_hazards.md R253). -/
abbrev State.Inv (s : State) : Prop :=
  s.mem.wf = true ∧ (s.halted = true → s.running = false) ∧ (s.halted = true → (decodeOpcode s.haltOpcode).isNone = true) ∧
  (s.z && s.n) = false ∧ s.i = false ∧ s.d = false ∧ s.b = false ∧ s.sp.toNat % 2 = 1 ∧ s.bus.length ≤ 5

/-- An iteration of a run starts here: a run is in progress and `cancel` is sampled 0 (spec/46_execution_engine.md
R190, R196). -/
abbrev State.Iterating (s : State) : Prop := s.running = true ∧ s.cancelSampled = false

/-- The state after the fetch of an instruction of `n` bytes at the top of an iteration: PC past its bytes, one cycle and
one read for each, the sample of `cancel` used up (spec/46_execution_engine.md R191, R196, R203). -/
def State.afterFetch (s : State) (n : Nat) : State :=
  { s with
    pc := s.pc + BitVec.ofNat 16 n
    cyc := s.cyc + n
    cancelIn := s.cancelIn.tail
    bus := (List.range n).map (fun k => .read (s.pc + BitVec.ofNat 16 k) (s.instrByte k)) }

/-- The state tuple of R20 alone: the model's own three fields (log entries 7, 8, 9) are left out of sight. -/
def State.arch (s : State) : State := { s with cancelIn := [], hostOps := [], bus := [] }

/-- The accesses counted and shown on the memory port, and `k` extra cycles (spec/20_memory.md R52, R53;
spec/46_execution_engine.md R199). -/
def State.counted (s : State) (accs : List BusAccess) (k : Nat) : State :=
  { s with cyc := s.cyc + accs.length + k, bus := s.bus ++ accs }

/-- Z and N of a value, by its unsigned reading (spec/10_state.md R34). -/
def State.flagged (s : State) (r : Byte) : State := { s with z := decide (r.toNat = 0), n := decide (128 ≤ r.toNat) }

/-- The address `n mod 65536`. -/
def addrOf (n : Nat) : Addr := BitVec.ofNat 16 (n % 65536)

/-- A read of the cell at an address, as the memory port shows it. -/
def State.readOf (s : State) (p : Addr) : BusAccess := .read p (s.mem.read p)

end Sys2Proof.Machine

namespace Sys2Proof

/-- Whether a form writes A (spec/10_state.md R21). -/
def Instr.writesA (i : Instr) : Bool :=
  i.operation == .lda || i.operation == .adc || i.operation == .and || i.mode == .acc

/-- Whether a form writes X (spec/10_state.md R22). -/
def Instr.writesX (i : Instr) : Bool := i.operation == .ldx

/-- Whether a form writes Y (spec/10_state.md R23). -/
def Instr.writesY (i : Instr) : Bool := i.operation == .ldy

/-- Whether a form writes SP (spec/10_state.md R25). -/
def Instr.writesSp (i : Instr) : Bool := i.operation == .jsr || i.operation == .rts

/-- Whether a form is a control transfer, which overwrites PC (spec/10_state.md R24). -/
def Instr.writesPc (i : Instr) : Bool := i.operation == .jmp || i.operation == .jsr || i.operation == .rts

/-- Whether a form writes C (spec/10_state.md R27). -/
def Instr.writesC (i : Instr) : Bool := i.operation == .adc || i.operation == .asl

/-- Whether a form writes V (spec/10_state.md R32). -/
def Instr.writesV (i : Instr) : Bool := i.operation == .adc

/-- Whether a form writes Z and N, which are written together or not at all (spec/10_state.md R28, R33, R34). -/
def Instr.writesZN (i : Instr) : Bool := !i.writesPc

/-- The addresses a form stores to, each computed as its meaning computes it; only ASL on memory and JSR store
(spec/20_memory.md R70). -/
def Instr.stores (i : Instr) (s : Machine.State) : List Addr :=
  match i with
  | .aslZp d8 => [Machine.eaZp d8]
  | .aslZpx d8 => [Machine.eaZpx d8 s]
  | .aslAbs lo8 hi8 => [Machine.eaAbs lo8 hi8]
  | .aslAbsx lo8 hi8 => [Machine.eaAbsx lo8 hi8 s]
  | .jsrAbs _ _ => [Machine.stackAddr s.sp, Machine.stackAddr (s.sp - 1)]
  | .ldaImm _ | .ldaZp _ | .ldaZpx _ | .ldaAbs _ _ | .ldaAbsx _ _ | .ldaAbsy _ _ => []
  | .ldxImm _ | .ldxZp _ | .ldxZpy _ | .ldxAbs _ _ | .ldxAbsy _ _ => []
  | .ldyImm _ | .ldyZp _ | .ldyZpx _ | .ldyAbs _ _ | .ldyAbsx _ _ => []
  | .adcImm _ | .adcZp _ | .adcZpx _ | .adcAbs _ _ | .adcAbsx _ _ | .adcAbsy _ _ => []
  | .andImm _ | .andZp _ | .andZpx _ | .andAbs _ _ | .andAbsx _ _ | .andAbsy _ _ => []
  | .aslAcc | .jmpAbs _ _ | .rtsImp => []

/-- The effective address of a form in a memory mode, from the state at the top of its iteration, by the integer formulas
of the resolver (spec/40_addressing_modes.md R102 to R107, R114). -/
def Instr.effectiveAddress (i : Instr) (s : Machine.State) : Option Addr :=
  match i.mode, i.operands with
  | .zp, [d8] => some (Machine.addrOf d8.toNat)
  | .zpx, [d8] => some (Machine.addrOf ((d8.toNat + s.x.toNat) % 256))
  | .zpy, [d8] => some (Machine.addrOf ((d8.toNat + s.y.toNat) % 256))
  | .abs, [lo8, hi8] => some (Machine.addrOf (hi8.toNat * 256 + lo8.toNat))
  | .absx, [lo8, hi8] => some (Machine.addrOf (hi8.toNat * 256 + lo8.toNat + s.x.toNat))
  | .absy, [lo8, hi8] => some (Machine.addrOf (hi8.toNat * 256 + lo8.toNat + s.y.toNat))
  | _, _ => none

/-- The operand value of a form that takes one: the operand byte (spec/40_addressing_modes.md R101), A (R108), or the byte
at the effective address (R110). JMP and JSR take an address only (R111), RTS nothing (R109). `s` is the state at the top of
the iteration. -/
def Instr.operandValue (i : Instr) (s : Machine.State) : Option Byte :=
  if i.writesPc then none
  else match i.mode, i.operands with
    | .imm, [d8] => some d8
    | .acc, _ => some s.a
    | _, _ => (i.effectiveAddress s).map s.mem.read

/-- Whether the index addition of an absolute indexed form carries into the high byte (spec/40_addressing_modes.md R106,
R107; spec/46_execution_engine.md R199). -/
def Instr.crossesPage (i : Instr) (s : Machine.State) : Bool :=
  match i.mode, i.operands with
  | .absx, [lo8, _] => decide (256 ≤ lo8.toNat + s.x.toNat)
  | .absy, [lo8, _] => decide (256 ≤ lo8.toNat + s.y.toNat)
  | _, _ => false

/-- The accesses of a form after its instruction bytes are fetched, in order: the table of spec/46_execution_engine.md
R203, with the bytes that ASL and JSR write. `s` is the state at the top of the iteration. -/
def Instr.dataAccesses (i : Instr) (s : Machine.State) : List Machine.BusAccess :=
  match i.operation, i.effectiveAddress s with
  | .jmp, _ => []
  | .jsr, _ =>
    [.write (Machine.addrOf (0x0100 + s.sp.toNat)) (BitVec.ofNat 8 ((s.pc.toNat + 2) % 65536 / 256)),
     .write (Machine.addrOf (0x0100 + (s.sp.toNat + 255) % 256)) (BitVec.ofNat 8 ((s.pc.toNat + 2) % 256))]
  | .rts, _ =>
    [s.readOf (Machine.addrOf (0x0100 + (s.sp.toNat + 1) % 256)), s.readOf (Machine.addrOf (0x0100 + (s.sp.toNat + 2) % 256))]
  | .asl, some ea => [s.readOf ea, .write ea (BitVec.ofNat 8 (2 * (s.mem.read ea).toNat % 256))]
  | .asl, none => []
  | .lda, some ea | .ldx, some ea | .ldy, some ea | .adc, some ea | .and, some ea => [s.readOf ea]
  | .lda, none | .ldx, none | .ldy, none | .adc, none | .and, none => []

end Sys2Proof
end

