-- ==== Sys2Proof/Certificates/Slice0/Obligations.lean ====
section
/-!
DEFINITION. The statements about the model, from the numbered rules of spec/. Wherever a statement gives an address, a
result or a flag, it uses the spec's own integer arithmetic, not the model's bit operations.
-/
open Sys2Proof Sys2Proof.Machine

/-! ## Encoding and decoding -/

/-- R80 to R86: decoding an encoded form gives it back, with every operand at every value, whatever follows. The opcode
bytes are D1's (log 1). -/
def Obligations.DecodeOfEncodeIsIdentity : Prop :=
  ∀ (i : Instr) (rest : List Byte), i.wellFormed = true → decode (encode i ++ rest) = .ok (i, rest)

/-- R80 to R86, R91: a byte string decodes to `i` only if it begins with `i`'s own bytes: no bit is ignored, no two byte
strings share a form. -/
def Obligations.EncodeOfDecodeIsIdentity : Prop :=
  ∀ (bytes rest : List Byte) (i : Instr), decode bytes = .ok (i, rest) → bytes = encode i ++ rest

/-- R81 to R83, R86: words written out bit by bit from the spec's encodings, one of each operation, read as what they
stand for. The opcode bytes are D1's (log 1). -/
def Obligations.WrittenWordsDecode : Prop :=
  decode [0b10111101, 0b00000000, 0b00000101] = .ok (.ldaAbsx 0x00 0x05, []) ∧
  decode [0b10110110, 0b00010000] = .ok (.ldxZpy 0x10, []) ∧
  decode [0b10100000, 0b00000001] = .ok (.ldyImm 0x01, []) ∧
  decode [0b01111001, 0b11111111, 0b00000100] = .ok (.adcAbsy 0xFF 0x04, []) ∧
  decode [0b00110101, 0b00010000] = .ok (.andZpx 0x10, []) ∧
  decode [0b00001010] = .ok (.aslAcc, []) ∧
  decode [0b00011110, 0b11111111, 0b00000000] = .ok (.aslAbsx 0xFF 0x00, []) ∧
  decode [0b01001100, 0b00100000, 0b00000100] = .ok (.jmpAbs 0x20 0x04, []) ∧
  decode [0b00100000, 0b00010000, 0b00000011] = .ok (.jsrAbs 0x10 0x03, []) ∧
  decode [0b01100000] = .ok (.rtsImp, [])

/-- R87, R91: the opcode bytes of R86 are recognized, the other 220 byte values are not, and a byte string that begins
with an unrecognized byte is refused by that byte's name. The byte values are D1's (log 1). -/
def Obligations.OtherBytesAreUnrecognized : Prop :=
  (∀ op : Byte, (decodeOpcode op).isNone = true ↔
    op.toNat ∉ [0x06, 0x0A, 0x0E, 0x16, 0x1E, 0x20, 0x25, 0x29, 0x2D, 0x35, 0x39, 0x3D, 0x4C, 0x60, 0x65, 0x69, 0x6D, 0x75,
      0x79, 0x7D, 0xA0, 0xA2, 0xA4, 0xA5, 0xA6, 0xA9, 0xAC, 0xAD, 0xAE, 0xB4, 0xB5, 0xB6, 0xB9, 0xBC, 0xBD, 0xBE]) ∧
  ((List.range 256).filter (fun n => (decodeOpcode (BitVec.ofNat 8 n)).isNone)).length = 220 ∧
  ∀ (op : Byte) (rest : List Byte), (decodeOpcode op).isNone = true → decode (op :: rest) = .error (.unrecognizedOpcode op)

/-- R80, R84: the length of a form is decided by its opcode byte alone, is 1, 2 or 3 by its mode, and is the number of
bytes of its encoding. -/
def Obligations.OpcodeByteDecidesTheLength : Prop :=
  ∀ i j : Instr,
    (i.opcode = j.opcode → i.length = j.length) ∧
    (encode i).length = i.length ∧
    (i.length = 1 ↔ i.mode = .acc ∨ i.mode = .imp) ∧
    (i.length = 2 ↔ i.mode = .imm ∨ i.mode = .zp ∨ i.mode = .zpx ∨ i.mode = .zpy) ∧
    (i.length = 3 ↔ i.mode = .abs ∨ i.mode = .absx ∨ i.mode = .absy)

/-! ## Memory and stack -/

/-- R52: `MemRead(a, 1)` returns `Mem[a]`, counts one cycle, and changes nothing else. (What the memory port shows, the
model's own field, is left open here.) -/
def Obligations.MemReadReturnsTheCell : Prop :=
  ∀ (s : State) (p : Addr),
    (memRead p s).1 = s.mem.read p ∧ (memRead p s).2 = { s with cyc := s.cyc + 1, bus := (memRead p s).2.bus }

/-- R53: after `MemWrite(a, 1, v)` the cell reads as `v`, every other cell reads as before, one cycle is counted, and
nothing else is changed. (What the memory port shows, the model's own field, is left open here.) -/
def Obligations.MemWriteChangesOneCell : Prop :=
  ∀ (s : State) (p q : Addr) (w : Byte),
    (memWrite p w s).mem.read p = w ∧
    (q ≠ p → (memWrite p w s).mem.read q = s.mem.read q) ∧
    memWrite p w s = { s with mem := (memWrite p w s).mem, cyc := s.cyc + 1, bus := (memWrite p w s).bus }

/-- R54, R72: the word read is two reads, the byte at `a` and then the byte at `(a + 1) mod 65536`, and composes them as
low and high byte; a byte written is read back; and after the two bytes of `w` are written there it returns `w`. -/
def Obligations.WordReadIsLittleEndian : Prop :=
  ∀ (s : State) (p w : Addr) (v : Byte),
    (let lo := memRead p s
     let hi := memRead (addrOf (p.toNat + 1)) lo.2
     (memReadWord p s).1.toNat = hi.1.toNat * 256 + lo.1.toNat ∧ (memReadWord p s).2 = hi.2 ∧
     (memReadWord p s).2.cyc = s.cyc + 2) ∧
    (memRead p (memWrite p v s)).1 = v ∧
    (memReadWord p (memWrite (addrOf (p.toNat + 1)) (BitVec.ofNat 8 (w.toNat / 256))
      (memWrite p (BitVec.ofNat 8 (w.toNat % 256)) s))).1 = w

/-- R37, R41 and the canonical form (the model's own, log 15): two memories in canonical form whose 65536 cells read
alike are the same data. -/
def Obligations.CanonicalMemoriesThatReadAlikeAreEqual : Prop :=
  ∀ m k : Memory, m.wf = true → k.wf = true → (∀ p : Addr, m.read p = k.read p) → m = k

/-- R60, R61: a push writes at `STACK_BASE + SP` and then decrements SP modulo 256; a pull increments first and then
reads; both are one access. The order and the page are D5 and D3 (log 2, 3). -/
def Obligations.PushAndPullWrapInTheStackPage : Prop :=
  ∀ (s : State) (w : Byte),
    push w s = { s.counted [.write (addrOf (0x0100 + s.sp.toNat)) w] 0 with
      mem := s.mem.write (addrOf (0x0100 + s.sp.toNat)) w, sp := BitVec.ofNat 8 ((s.sp.toNat + 255) % 256) } ∧
    pull s = (s.mem.read (addrOf (0x0100 + (s.sp.toNat + 1) % 256)),
      { s.counted [s.readOf (addrOf (0x0100 + (s.sp.toNat + 1) % 256))] 0 with
        sp := BitVec.ofNat 8 ((s.sp.toNat + 1) % 256) })

/-- R62, R63 (the spec marks the round trip as derived from R60 to R62): `PushWord(w)` then `PullWord()` returns `w` and
restores SP, for every SP, in two accesses each. -/
def Obligations.PullWordUndoesPushWord : Prop :=
  ∀ (s : State) (w : Addr),
    (pullWord (pushWord w s)).1 = w ∧ (pullWord (pushWord w s)).2.sp = s.sp ∧
    (pullWord (pushWord w s)).2.cyc = s.cyc + 4 ∧
    ∀ p : Addr, p ≠ addrOf (0x0100 + s.sp.toNat) → p ≠ addrOf (0x0100 + (s.sp.toNat + 255) % 256) →
      (pullWord (pushWord w s)).2.mem.read p = s.mem.read p

/-- R173, R248 (the spec marks the depth as derived from R60): up to 128 pushed words are all still there, in reverse
order, and after as many pulls SP is what it was; a word pushed on top of 128 overwrites the first. The cells rest on the
stack page D3 and the order of push and pull D5 (log 2, 3). -/
def Obligations.StackKeeps128ReturnAddresses : Prop :=
  ∀ (s : State) (ws : List Addr), ws.length ≤ 128 →
    let full := ws.foldl (fun u w => pushWord w u) s
    let popped (k : Nat) := (List.range k).foldl (fun u _ => (pullWord u).2) full
    (∀ k : Nat, k < ws.length → ws.reverse[k]? = some (pullWord (popped k)).1) ∧
    (popped ws.length).sp = s.sp ∧
    (ws.length = 128 → ∀ w : Addr, (pushWord w full).mem.read (stackAddr s.sp) = hiByte w ∧
      (pushWord w full).mem.read (stackAddr (s.sp - 1)) = loByte w)

/-! ## Addressing modes -/

/-- R85: how the operand fields become values. An immediate is the byte as it is; a zero-page index is added in 8 bits, so
the address never leaves page zero; an absolute index is added with carry into the high byte and wraps at 16 bits. -/
def Obligations.OperandFieldsBecomeValues : Prop :=
  ∀ (s : State) (d8 lo8 hi8 : Byte),
    operandImm d8 s = (d8, s) ∧
    (eaZp d8).toNat = d8.toNat ∧
    (eaZpx d8 s).toNat = (d8.toNat + s.x.toNat) % 256 ∧
    (eaZpy d8 s).toNat = (d8.toNat + s.y.toNat) % 256 ∧
    (eaAbs lo8 hi8).toNat = hi8.toNat * 256 + lo8.toNat ∧
    (eaAbsx lo8 hi8 s).toNat = (hi8.toNat * 256 + lo8.toNat + s.x.toNat) % 65536 ∧
    (eaAbsy lo8 hi8 s).toNat = (hi8.toNat * 256 + lo8.toNat + s.y.toNat) % 65536

/-! ## What each instruction does

Each answers a next state, whatever the state and the operands, and the equation says every field of it. PC already stands
at the next instruction (`StepRunsTheDecodedInstruction` says how it got there). The list of accesses is the model's own
field (log 9); `ExtraCycles` is open, and that it may depend on the page crossing is log 6. -/

/-- R120, LDA in its six forms. -/
def Obligations.LdaLoadsTheOperand : Prop :=
  ∀ (s : State) (d8 lo8 hi8 : Byte),
    let zp := addrOf d8.toNat
    let zpx := addrOf ((d8.toNat + s.x.toNat) % 256)
    let base := hi8.toNat * 256 + lo8.toNat
    let load (mode : Mode) (crossed : Bool) (ea : Addr) : Host.Outcome State Fault Refusal :=
      .next { (s.counted [s.readOf ea] (Config.extraCycles .lda mode crossed)).flagged (s.mem.read ea) with
        a := s.mem.read ea }
    exec (.ldaImm d8) s = .next { (s.counted [] (Config.extraCycles .lda .imm false)).flagged d8 with a := d8 } ∧
    exec (.ldaZp d8) s = load .zp false zp ∧
    exec (.ldaZpx d8) s = load .zpx false zpx ∧
    exec (.ldaAbs lo8 hi8) s = load .abs false (addrOf base) ∧
    exec (.ldaAbsx lo8 hi8) s = load .absx (decide (256 ≤ lo8.toNat + s.x.toNat)) (addrOf (base + s.x.toNat)) ∧
    exec (.ldaAbsy lo8 hi8) s = load .absy (decide (256 ≤ lo8.toNat + s.y.toNat)) (addrOf (base + s.y.toNat))

/-- R120, LDX in its five forms. -/
def Obligations.LdxLoadsTheOperand : Prop :=
  ∀ (s : State) (d8 lo8 hi8 : Byte),
    let zp := addrOf d8.toNat
    let zpy := addrOf ((d8.toNat + s.y.toNat) % 256)
    let base := hi8.toNat * 256 + lo8.toNat
    let load (mode : Mode) (crossed : Bool) (ea : Addr) : Host.Outcome State Fault Refusal :=
      .next { (s.counted [s.readOf ea] (Config.extraCycles .ldx mode crossed)).flagged (s.mem.read ea) with
        x := s.mem.read ea }
    exec (.ldxImm d8) s = .next { (s.counted [] (Config.extraCycles .ldx .imm false)).flagged d8 with x := d8 } ∧
    exec (.ldxZp d8) s = load .zp false zp ∧
    exec (.ldxZpy d8) s = load .zpy false zpy ∧
    exec (.ldxAbs lo8 hi8) s = load .abs false (addrOf base) ∧
    exec (.ldxAbsy lo8 hi8) s = load .absy (decide (256 ≤ lo8.toNat + s.y.toNat)) (addrOf (base + s.y.toNat))

/-- R120, LDY in its five forms. -/
def Obligations.LdyLoadsTheOperand : Prop :=
  ∀ (s : State) (d8 lo8 hi8 : Byte),
    let zp := addrOf d8.toNat
    let zpx := addrOf ((d8.toNat + s.x.toNat) % 256)
    let base := hi8.toNat * 256 + lo8.toNat
    let load (mode : Mode) (crossed : Bool) (ea : Addr) : Host.Outcome State Fault Refusal :=
      .next { (s.counted [s.readOf ea] (Config.extraCycles .ldy mode crossed)).flagged (s.mem.read ea) with
        y := s.mem.read ea }
    exec (.ldyImm d8) s = .next { (s.counted [] (Config.extraCycles .ldy .imm false)).flagged d8 with y := d8 } ∧
    exec (.ldyZp d8) s = load .zp false zp ∧
    exec (.ldyZpx d8) s = load .zpx false zpx ∧
    exec (.ldyAbs lo8 hi8) s = load .abs false (addrOf base) ∧
    exec (.ldyAbsx lo8 hi8) s = load .absx (decide (256 ≤ lo8.toNat + s.x.toNat)) (addrOf (base + s.x.toNat))

/-- R140, ADC in its six forms, with `sum9`, C and V by the formulas of the rule; binary whatever D holds (D13,
log 18). -/
def Obligations.AdcAddsWithCarry : Prop :=
  ∀ (s : State) (d8 lo8 hi8 : Byte),
    let zp := addrOf d8.toNat
    let zpx := addrOf ((d8.toNat + s.x.toNat) % 256)
    let base := hi8.toNat * 256 + lo8.toNat
    let add (mode : Mode) (crossed : Bool) (accs : List BusAccess) (op : Byte) : Host.Outcome State Fault Refusal :=
      let sum := s.a.toNat + op.toNat + (if s.c then 1 else 0)
      let res := BitVec.ofNat 8 (sum % 256)
      .next { (s.counted accs (Config.extraCycles .adc mode crossed)).flagged res with
        a := res
        c := decide (256 ≤ sum)
        v := decide ((128 ≤ s.a.toNat ↔ 128 ≤ op.toNat) ∧ ¬(128 ≤ res.toNat ↔ 128 ≤ s.a.toNat)) }
    let addAt (mode : Mode) (crossed : Bool) (ea : Addr) := add mode crossed [s.readOf ea] (s.mem.read ea)
    exec (.adcImm d8) s = add .imm false [] d8 ∧
    exec (.adcZp d8) s = addAt .zp false zp ∧
    exec (.adcZpx d8) s = addAt .zpx false zpx ∧
    exec (.adcAbs lo8 hi8) s = addAt .abs false (addrOf base) ∧
    exec (.adcAbsx lo8 hi8) s = addAt .absx (decide (256 ≤ lo8.toNat + s.x.toNat)) (addrOf (base + s.x.toNat)) ∧
    exec (.adcAbsy lo8 hi8) s = addAt .absy (decide (256 ≤ lo8.toNat + s.y.toNat)) (addrOf (base + s.y.toNat))

/-- R140's arithmetic reading (the spec marks it derived): C is 1 iff the unsigned sum exceeds 255, V is 1 iff the sum of
the two's-complement readings lies outside -128 to 127, and with V = 0 the new A reads as that sum. -/
def Obligations.AdcFlagsReadTheSums : Prop :=
  ∀ (a op : Byte) (c : Bool),
    let signed : Int := a.toInt + op.toInt + (if c then 1 else 0)
    (adcResult a op c).toNat = (a.toNat + op.toNat + (if c then 1 else 0)) % 256 ∧
    (adcCarry a op c = true ↔ 255 < a.toNat + op.toNat + (if c then 1 else 0)) ∧
    (adcOverflow a op c = true ↔ signed < -128 ∨ 127 < signed) ∧
    (adcOverflow a op c = false → (adcResult a op c).toInt = signed)

/-- R147, AND in its six forms; C and V keep their values. -/
def Obligations.AndMasksTheAccumulator : Prop :=
  ∀ (s : State) (d8 lo8 hi8 : Byte),
    let zp := addrOf d8.toNat
    let zpx := addrOf ((d8.toNat + s.x.toNat) % 256)
    let base := hi8.toNat * 256 + lo8.toNat
    let mask (mode : Mode) (crossed : Bool) (accs : List BusAccess) (op : Byte) : Host.Outcome State Fault Refusal :=
      .next { (s.counted accs (Config.extraCycles .and mode crossed)).flagged (s.a &&& op) with a := s.a &&& op }
    let maskAt (mode : Mode) (crossed : Bool) (ea : Addr) := mask mode crossed [s.readOf ea] (s.mem.read ea)
    exec (.andImm d8) s = mask .imm false [] d8 ∧
    exec (.andZp d8) s = maskAt .zp false zp ∧
    exec (.andZpx d8) s = maskAt .zpx false zpx ∧
    exec (.andAbs lo8 hi8) s = maskAt .abs false (addrOf base) ∧
    exec (.andAbsx lo8 hi8) s = maskAt .absx (decide (256 ≤ lo8.toNat + s.x.toNat)) (addrOf (base + s.x.toNat)) ∧
    exec (.andAbsy lo8 hi8) s = maskAt .absy (decide (256 ≤ lo8.toNat + s.y.toNat)) (addrOf (base + s.y.toNat))

/-- R161: ASL on the accumulator; no access beyond the fetch. -/
def Obligations.AslShiftsTheAccumulator : Prop :=
  ∀ s : State,
    let res := BitVec.ofNat 8 (2 * s.a.toNat % 256)
    exec .aslAcc s = .next { (s.counted [] (Config.extraCycles .asl .acc false)).flagged res with
      a := res, c := decide (128 ≤ s.a.toNat) }

/-- R160, ASL on memory in its four forms: one read and one write at the resolver's address, which then holds the
shifted byte; A is not written. One read and one write only is D12 (log 5). -/
def Obligations.AslShiftsTheMemoryCell : Prop :=
  ∀ (s : State) (d8 lo8 hi8 : Byte),
    let zp := addrOf d8.toNat
    let zpx := addrOf ((d8.toNat + s.x.toNat) % 256)
    let base := hi8.toNat * 256 + lo8.toNat
    let shift (mode : Mode) (crossed : Bool) (ea : Addr) : Host.Outcome State Fault Refusal :=
      let old := s.mem.read ea
      let res := BitVec.ofNat 8 (2 * old.toNat % 256)
      .next { (s.counted [s.readOf ea, .write ea res] (Config.extraCycles .asl mode crossed)).flagged res with
        c := decide (128 ≤ old.toNat), mem := s.mem.write ea res }
    exec (.aslZp d8) s = shift .zp false zp ∧
    exec (.aslZpx d8) s = shift .zpx false zpx ∧
    exec (.aslAbs lo8 hi8) s = shift .abs false (addrOf base) ∧
    exec (.aslAbsx lo8 hi8) s = shift .absx (decide (256 ≤ lo8.toNat + s.x.toNat)) (addrOf (base + s.x.toNat))

/-- R170: JMP sets PC to the target and makes no access there; every flag and register keeps its value. -/
def Obligations.JmpSetsThePc : Prop :=
  ∀ (s : State) (lo8 hi8 : Byte),
    exec (.jmpAbs lo8 hi8) s = .next { s.counted [] (Config.extraCycles .jmp .abs false) with
      pc := addrOf (hi8.toNat * 256 + lo8.toNat) }

/-- R171, R62: JSR pushes `(PC - 1) mod 65536`, high byte first, and sets PC to the target. The stack page and the push
order are D3 and D5 (log 2, 3). -/
def Obligations.JsrPushesTheReturnAddress : Prop :=
  ∀ (s : State) (lo8 hi8 : Byte),
    let ret := (s.pc.toNat + 65535) % 65536
    let top := addrOf (0x0100 + s.sp.toNat)
    let below := addrOf (0x0100 + (s.sp.toNat + 255) % 256)
    let hi := BitVec.ofNat 8 (ret / 256)
    let lo := BitVec.ofNat 8 (ret % 256)
    exec (.jsrAbs lo8 hi8) s = .next { s.counted [.write top hi, .write below lo] (Config.extraCycles .jsr .abs false) with
      pc := addrOf (hi8.toNat * 256 + lo8.toNat)
      sp := BitVec.ofNat 8 ((s.sp.toNat + 254) % 256)
      mem := (s.mem.write top hi).write below lo }

/-- R172, R63: RTS pulls a word, low byte first, and sets PC one past it. The stack page and the pull order are D3 and D5
(log 2, 3). -/
def Obligations.RtsReturnsPastThePulledAddress : Prop :=
  ∀ s : State,
    let first := addrOf (0x0100 + (s.sp.toNat + 1) % 256)
    let second := addrOf (0x0100 + (s.sp.toNat + 2) % 256)
    let pulled := (s.mem.read second).toNat * 256 + (s.mem.read first).toNat
    exec .rtsImp s = .next { s.counted [s.readOf first, s.readOf second] (Config.extraCycles .rts .imp false) with
      pc := addrOf (pulled + 1)
      sp := BitVec.ofNat 8 ((s.sp.toNat + 2) % 256) }

/-- R28, R33, R34: `SetZN` sets Z iff the value is 0x00 and N from bit 7, and writes nothing else. Every instruction but JMP,
JSR and RTS sets both by it from its result: the new A, X or Y where it writes that register, the byte now in the cell where
it is ASL on memory. Those three write neither. -/
def Obligations.SetZnIsTheAuthorityForZAndN : Prop :=
  (∀ (s : State) (w : Byte), s.setZN w = { s with z := decide (w.toNat = 0), n := decide (128 ≤ w.toNat) }) ∧
  ∀ (i : Instr) (s t : State), exec i s = .next t →
    let setBy (w : Byte) : Prop := t.z = (s.setZN w).z ∧ t.n = (s.setZN w).n
    (i.writesA = true → setBy t.a) ∧
    (i.writesX = true → setBy t.x) ∧
    (i.writesY = true → setBy t.y) ∧
    (∀ ea : Addr, i.stores s = [ea] → setBy (t.mem.read ea)) ∧
    (i.writesZN = true ↔ i.writesA = true ∨ i.writesX = true ∨ i.writesY = true ∨ ∃ ea : Addr, i.stores s = [ea]) ∧
    (i.writesZN = false → t.z = s.z ∧ t.n = s.n)

/-! ## The contracts, from the top of an iteration

For every form the decoder reads at PC: the whole state of R20 after the iteration, with PC past the instruction, one cycle
for each access and the open `ExtraCycles` (log 6). The model's own fields (log 7, 8, 9) are left out by `State.arch`. -/

/-- R120: LDA, LDX and LDY in their 16 forms, which are D1's (log 1). That `ExtraCycles` is given the page crossing is the
model's choice (log 6). -/
def Obligations.LoadsMeetTheirContract : Prop :=
  ∀ (s : State) (i : Instr) (rest : List Byte), s.Iterating → decode s.instrBytes = .ok (i, rest) →
    (i.operation = .lda ∨ i.operation = .ldx ∨ i.operation = .ldy) →
    ∃ (v : Byte) (t : State), i.operandValue s = some v ∧ step s = .next t ∧
      t.arch = { s.arch with
        pc := addrOf (s.pc.toNat + i.length)
        a := if i.operation = .lda then v else s.a
        x := if i.operation = .ldx then v else s.x
        y := if i.operation = .ldy then v else s.y
        z := decide (v.toNat = 0)
        n := decide (128 ≤ v.toNat)
        cyc := s.cyc + i.length + (if i.mode = .imm then 0 else 1) +
          Config.extraCycles i.operation i.mode (i.crossesPage s) }

/-- R140: ADC in its six forms; binary whatever D holds (D13, log 18). That `ExtraCycles` is given the page crossing is the
model's choice (log 6). -/
def Obligations.AdcMeetsItsContract : Prop :=
  ∀ (s : State) (i : Instr) (rest : List Byte), s.Iterating → decode s.instrBytes = .ok (i, rest) → i.operation = .adc →
    ∃ (op res : Byte) (t : State), i.operandValue s = some op ∧ step s = .next t ∧
      res.toNat = (s.a.toNat + op.toNat + (if s.c then 1 else 0)) % 256 ∧
      t.arch = { s.arch with
        pc := addrOf (s.pc.toNat + i.length)
        a := res
        c := decide (256 ≤ s.a.toNat + op.toNat + (if s.c then 1 else 0))
        v := decide ((128 ≤ s.a.toNat ↔ 128 ≤ op.toNat) ∧ ¬(128 ≤ res.toNat ↔ 128 ≤ s.a.toNat))
        z := decide (res.toNat = 0)
        n := decide (128 ≤ res.toNat)
        cyc := s.cyc + i.length + (if i.mode = .imm then 0 else 1) + Config.extraCycles .adc i.mode (i.crossesPage s) }

/-- R147: AND in its six forms, bit by bit; C and V unaffected. That `ExtraCycles` is given the page crossing is the model's
choice (log 6). -/
def Obligations.AndMeetsItsContract : Prop :=
  ∀ (s : State) (i : Instr) (rest : List Byte), s.Iterating → decode s.instrBytes = .ok (i, rest) → i.operation = .and →
    ∃ (op res : Byte) (t : State), i.operandValue s = some op ∧ step s = .next t ∧
      (∀ k : Nat, res.getLsbD k = (s.a.getLsbD k && op.getLsbD k)) ∧
      t.arch = { s.arch with
        pc := addrOf (s.pc.toNat + i.length)
        a := res
        z := decide (res.toNat = 0)
        n := decide (128 ≤ res.toNat)
        cyc := s.cyc + i.length + (if i.mode = .imm then 0 else 1) + Config.extraCycles .and i.mode (i.crossesPage s) }

/-- R160: ASL in its five forms: the shifted value goes to A, or back to the one cell it was read from. One read and one
write only is D12 (log 5). -/
def Obligations.AslMeetsItsContract : Prop :=
  ∀ (s : State) (i : Instr) (rest : List Byte), s.Iterating → decode s.instrBytes = .ok (i, rest) → i.operation = .asl →
    ∃ (old res : Byte) (t : State), i.operandValue s = some old ∧ step s = .next t ∧ res.toNat = 2 * old.toNat % 256 ∧
      (i.mode = .acc → ∀ p : Addr, t.mem.read p = s.mem.read p) ∧
      (i.mode ≠ .acc → ∃ ea : Addr, i.effectiveAddress s = some ea ∧
        ∀ p : Addr, t.mem.read p = if p = ea then res else s.mem.read p) ∧
      t.arch = { s.arch with
        pc := addrOf (s.pc.toNat + i.length)
        a := if i.mode = .acc then res else s.a
        c := decide (128 ≤ old.toNat)
        z := decide (res.toNat = 0)
        n := decide (128 ≤ res.toNat)
        mem := t.mem
        cyc := s.cyc + i.length + (if i.mode = .acc then 0 else 2) + Config.extraCycles .asl i.mode (i.crossesPage s) }

/-- R170, R171, R172: JMP, JSR and RTS, from the opcode's address in PC: JSR pushes the address of its own last byte. The
stack page and the order of pushes and pulls are D3 and D5 (log 2, 3). -/
def Obligations.ControlTransfersMeetTheirContracts : Prop :=
  ∀ (s : State) (lo8 hi8 : Byte) (rest : List Byte), s.Iterating →
    let target := addrOf (hi8.toNat * 256 + lo8.toNat)
    let last := (s.pc.toNat + 2) % 65536
    let top := addrOf (0x0100 + s.sp.toNat)
    let below := addrOf (0x0100 + (s.sp.toNat + 255) % 256)
    let first := addrOf (0x0100 + (s.sp.toNat + 1) % 256)
    let second := addrOf (0x0100 + (s.sp.toNat + 2) % 256)
    (decode s.instrBytes = .ok (.jmpAbs lo8 hi8, rest) →
      ∃ t : State, step s = .next t ∧
        t.arch = { s.arch with pc := target, cyc := s.cyc + 3 + Config.extraCycles .jmp .abs false }) ∧
    (decode s.instrBytes = .ok (.jsrAbs lo8 hi8, rest) →
      ∃ t : State, step s = .next t ∧
        (t.mem.read top).toNat = last / 256 ∧ (t.mem.read below).toNat = last % 256 ∧
        (∀ p : Addr, p ≠ top → p ≠ below → t.mem.read p = s.mem.read p) ∧
        t.arch = { s.arch with
          pc := target
          sp := BitVec.ofNat 8 ((s.sp.toNat + 254) % 256)
          mem := t.mem
          cyc := s.cyc + 5 + Config.extraCycles .jsr .abs false }) ∧
    (decode s.instrBytes = .ok (.rtsImp, rest) →
      ∃ t : State, step s = .next t ∧
        t.arch = { s.arch with
          pc := addrOf ((s.mem.read second).toNat * 256 + (s.mem.read first).toNat + 1)
          sp := BitVec.ofNat 8 ((s.sp.toNat + 2) % 256)
          cyc := s.cyc + 3 + Config.extraCycles .rts .imp false })

/-! ## Frames: what each instruction leaves unchanged -/

/-- R120: a load changes its target, Z, N and the cycle count, and no byte of memory. -/
def Obligations.LoadsLeaveTheRestUnchanged : Prop :=
  ∀ (i : Instr) (s t : State), i.operation = .lda ∨ i.operation = .ldx ∨ i.operation = .ldy → exec i s = .next t →
    (i.operation ≠ .lda → t.a = s.a) ∧ (i.operation ≠ .ldx → t.x = s.x) ∧ (i.operation ≠ .ldy → t.y = s.y) ∧
    t.sp = s.sp ∧ t.pc = s.pc ∧ t.c = s.c ∧ t.v = s.v ∧ t.i = s.i ∧ t.d = s.d ∧ t.b = s.b ∧
    t.halted = s.halted ∧ t.haltOpcode = s.haltOpcode ∧ t.running = s.running ∧
    (∀ p : Addr, t.mem.read p = s.mem.read p)

/-- R140, R147, R161: ADC, AND and ASL A change A, Z, N, the cycle count, for ADC and ASL also C, for ADC also V, and no
byte of memory. -/
def Obligations.AccumulatorFormsLeaveTheRestUnchanged : Prop :=
  ∀ (i : Instr) (s t : State), i.operation = .adc ∨ i.operation = .and ∨ i = .aslAcc → exec i s = .next t →
    t.x = s.x ∧ t.y = s.y ∧ t.sp = s.sp ∧ t.pc = s.pc ∧ t.i = s.i ∧ t.d = s.d ∧ t.b = s.b ∧
    (i.operation = .and → t.c = s.c) ∧ (i.operation ≠ .adc → t.v = s.v) ∧
    t.halted = s.halted ∧ t.haltOpcode = s.haltOpcode ∧ t.running = s.running ∧
    (∀ p : Addr, t.mem.read p = s.mem.read p)

/-- R160, R163: ASL on memory changes the one cell at the address its meaning computes, C, Z, N and the cycle count. -/
def Obligations.AslOnMemoryLeavesTheRestUnchanged : Prop :=
  ∀ (i : Instr) (s t : State), i.operation = .asl → i.mode ≠ .acc → exec i s = .next t →
    t.a = s.a ∧ t.x = s.x ∧ t.y = s.y ∧ t.sp = s.sp ∧ t.pc = s.pc ∧
    t.v = s.v ∧ t.i = s.i ∧ t.d = s.d ∧ t.b = s.b ∧
    t.halted = s.halted ∧ t.haltOpcode = s.haltOpcode ∧ t.running = s.running ∧
    (∃ ea : Addr, i.stores s = [ea]) ∧
    (∀ p ea : Addr, i.stores s = [ea] →
      t.mem.read p = if p = ea then BitVec.ofNat 8 (2 * (s.mem.read ea).toNat % 256) else s.mem.read p)

/-- R170, R171, R172: JMP, JSR and RTS change no register but PC and, for JSR and RTS, SP; no flag; and, for JMP and RTS,
no byte of memory. -/
def Obligations.ControlTransfersLeaveTheRestUnchanged : Prop :=
  ∀ (i : Instr) (s t : State), i.writesPc = true → exec i s = .next t →
    t.a = s.a ∧ t.x = s.x ∧ t.y = s.y ∧ (i.operation = .jmp → t.sp = s.sp) ∧
    t.c = s.c ∧ t.z = s.z ∧ t.i = s.i ∧ t.d = s.d ∧ t.b = s.b ∧ t.v = s.v ∧ t.n = s.n ∧
    t.halted = s.halted ∧ t.haltOpcode = s.haltOpcode ∧ t.running = s.running ∧
    (∀ p : Addr, (i.operation = .jsr → p ≠ stackAddr s.sp ∧ p ≠ stackAddr (s.sp - 1)) → t.mem.read p = s.mem.read p)

/-! ## Who may write what: rules over all 36 forms -/

/-- R21, R22, R23, R25: A is written by LDA, ADC, AND and ASL A only; X by LDX only; Y by LDY only; SP by JSR and RTS
only. -/
def Obligations.RegistersHaveOnlyTheirWriters : Prop :=
  ∀ (i : Instr) (s t : State), exec i s = .next t →
    (i.writesA = false → t.a = s.a) ∧ (i.writesX = false → t.x = s.x) ∧ (i.writesY = false → t.y = s.y) ∧
    (i.writesSp = false → t.sp = s.sp)

/-- R27 to R33: C is written by ADC and ASL only, V by ADC only, Z and N by every instruction but JMP, JSR and RTS, and
I, D and B by none. -/
def Obligations.FlagsHaveOnlyTheirWriters : Prop :=
  ∀ (i : Instr) (s t : State), exec i s = .next t →
    (i.writesC = false → t.c = s.c) ∧ (i.writesV = false → t.v = s.v) ∧
    (i.writesZN = false → t.z = s.z ∧ t.n = s.n) ∧
    t.i = s.i ∧ t.d = s.d ∧ t.b = s.b

/-- R70: ASL on memory and JSR are the only instructions that write memory, and they write only where their meaning
computes. -/
def Obligations.OnlyAslAndJsrWriteMemory : Prop :=
  ∀ (i : Instr) (s t : State), exec i s = .next t →
    (∀ p : Addr, p ∉ i.stores s → t.mem.read p = s.mem.read p) ∧
    (i.stores s ≠ [] ↔ i.operation = .jsr ∨ (i.operation = .asl ∧ i.mode ≠ .acc))

/-- R25, R59, R60: JSR stores only inside the stack page, 0x0100 to 0x01FF, whatever SP is. The page is D3 (log 2). -/
def Obligations.JsrStoresOnlyInTheStackPage : Prop :=
  ∀ (lo8 hi8 : Byte) (s t : State), exec (.jsrAbs lo8 hi8) s = .next t →
    ∀ p : Addr, (p.toNat < 0x0100 ∨ 0x01FF < p.toNat) → t.mem.read p = s.mem.read p

/-! ## The step: fetch, dispatch, halt, cancellation, host -/

/-- R190, R191, R192: at the top of an iteration that is not cancelled, when the bytes at PC decode to `i`, the step is
`i`'s meaning from the state whose PC has passed `i`'s bytes, each fetched by one counted read. That the step fetches before
it calls the meaning is log 10; the sample of `cancel` used up and the list of accesses are the model's (log 7, 9). -/
def Obligations.StepRunsTheDecodedInstruction : Prop :=
  ∀ (s : State) (i : Instr) (rest : List Byte), s.Iterating → decode s.instrBytes = .ok (i, rest) → i.wellFormed = true →
    step s = exec i (s.afterFetch i.length)

/-- R24, R191: after a step that runs an instruction which is no control transfer, PC is the address of its opcode byte
plus its length, modulo 65536. -/
def Obligations.PcAdvancesByTheLength : Prop :=
  ∀ (s : State) (i : Instr) (rest : List Byte), s.Iterating → decode s.instrBytes = .ok (i, rest) → i.writesPc = false →
    ∃ t : State, step s = .next t ∧ t.pc.toNat = (s.pc.toNat + i.length) % 65536

/-- R203, R70: the accesses of one iteration, in order: the instruction's bytes, low offset first, then those of the table
for its form; of an unrecognized opcode the one fetch. The order is D12 (log 5); the list is the model's own field
(log 9). -/
def Obligations.AccessesComeInTheSpecifiedOrder : Prop :=
  ∀ s : State, s.Iterating →
    ∃ t : State, step s = .next t ∧
      match decode s.instrBytes with
      | .ok (i, _) => t.bus =
          (List.range i.length).map (fun k => BusAccess.read (addrOf (s.pc.toNat + k)) (s.instrByte k)) ++ i.dataAccesses s
      | .error _ => t.bus = [s.readOf s.pc]

/-- R198, R199, R253: an iteration adds to CYC one for each access on the memory port, plus the open `ExtraCycles` of the
instruction it ran (nothing at a halt), which may depend on whether the absolute index addition crossed a page (log 6); it
makes at least one and at most five accesses. The memory port is the model's own field (log 9). -/
def Obligations.CyclesCountTheAccesses : Prop :=
  ∀ s : State, s.Iterating →
    ∃ t : State, step s = .next t ∧ 1 ≤ t.bus.length ∧ t.bus.length ≤ 5 ∧
      match decode s.instrBytes with
      | .ok (i, _) => t.cyc = s.cyc + t.bus.length + Config.extraCycles i.operation i.mode (i.crossesPage s)
      | .error _ => t.cyc = s.cyc + t.bus.length

/-- R87, R210: an iteration that starts with `HALTED` = 0 ends with `HALTED` = 1 exactly when the byte at PC is an
unrecognized opcode; then `HALT_OPCODE` is that byte, `RUNNING` is 0, and the run's result is `Halt` of that byte with
the count. -/
def Obligations.UnrecognizedOpcodeHalts : Prop :=
  ∀ s : State, s.Iterating → s.halted = false →
    ∃ t : State, step s = .next t ∧
      (t.halted = true ↔ (decodeOpcode (s.instrByte 0)).isNone = true) ∧
      (t.halted = true → t.haltOpcode = s.instrByte 0 ∧ t.running = false ∧
        runResult s t = some (.halt (s.instrByte 0) t.cyc)) ∧
      (t.halted = false → t.running = true ∧ runResult s t = none)

/-- R212: the whole state at a halt: PC one past the byte (D8, log 4), one access counted, every register, flag and
memory cell as it was. -/
def Obligations.HaltLeavesTheStateOfTheLastInstruction : Prop :=
  ∀ s : State, s.Iterating → (decodeOpcode (s.instrByte 0)).isNone = true →
    step s = .next { s with
      pc := addrOf (s.pc.toNat + 1), cyc := s.cyc + 1, cancelIn := s.cancelIn.tail, bus := [s.readOf s.pc],
      halted := true, haltOpcode := s.mem.read s.pc, running := false }

/-- R196, R215: a run whose iteration top samples `cancel` as 1 ends `Cancelled`: nothing is fetched, whatever the byte at
PC; PC, CYC, `HALTED`, every register, flag and memory cell keep their values. The list of samples is the model's own (log 7). -/
def Obligations.CancellationFetchesNothing : Prop :=
  ∀ s : State, s.running = true → s.cancelSampled = true →
    step s = .next { s with running := false, cancelIn := s.cancelIn.tail, bus := [] } ∧
    (s.halted = false → ∀ t : State, step s = .next t → runResult s t = some (.cancelled s.cyc))

/-- R10, R211: every state answers a next state: no fault, no refusal, no fourth outcome. That a halt is a next state is
log 14. -/
def Obligations.EveryStateHasANextState : Prop := ∀ s : State, ∃ t : State, step s = .next t

/-- R194, R202: in `S_IDLE` the Run operation sets CYC and `HALTED` to 0 and `RUNNING` to 1 and changes no register, flag,
memory cell or `HALT_OPCODE`; an idle machine of which nothing is asked stays as it is; Observe changes nothing. That the
host's operations stand in a list is the model's choice (log 8). -/
def Obligations.RunStartsAtTheCurrentPc : Prop :=
  ∀ (s : State) (ops : List HostOp), s.running = false →
    (s.hostOps = .run :: ops → step s = .next { s with cyc := 0, halted := false, running := true, hostOps := ops, bus := [] }) ∧
    (s.hostOps = .observe :: ops → step s = .next { s with hostOps := ops, bus := [] }) ∧
    (s.hostOps = [] → step s = .next { s with bus := [] })

/-- R71: the host's Load writes one cell directly: no cycle, no access of the core, no other cell or register. That it waits
for `RUNNING` = 0 is D14 (log 19); the list of operations is the model's own (log 8). -/
def Obligations.LoadWritesOneCellWithoutACycle : Prop :=
  ∀ (s : State) (p : Addr) (w : Byte) (ops : List HostOp), s.running = false → s.hostOps = .load p w :: ops →
    ∃ t : State, step s = .next t ∧ t.mem.read p = w ∧ (∀ q : Addr, q ≠ p → t.mem.read q = s.mem.read q) ∧
      t = { s with mem := t.mem, hostOps := ops, bus := [] }

/-- R240, R241, R193: reset, performed while no run is in progress, leaves the state of R41 whatever the state was; while
a run is in progress no operation of the host is performed (D11, log 19). The list of operations is the model's own
(log 8). -/
def Obligations.ResetReplacesTheWholeState : Prop :=
  ∀ (s : State) (ops : List HostOp),
    (s.running = false → s.hostOps = .reset :: ops →
      step s = .next { State.reset with hostOps := ops, cancelIn := s.cancelIn }) ∧
    (s.running = true → ∀ t : State, step s = .next t → t.hostOps = s.hostOps)

/-- R41: the value of every element right after reset. The numerals of PC, SP and the seed are D2, D4 and D6 (log 2). -/
def Obligations.ResetLeavesTheTableOfValues : Prop :=
  State.reset.pc.toNat = 0xFFFC ∧ State.reset.sp.toNat = 0xFF ∧ State.reset.a = 0 ∧ State.reset.x = 0 ∧ State.reset.y = 0 ∧
  State.reset.c = false ∧ State.reset.z = false ∧ State.reset.i = false ∧ State.reset.d = false ∧ State.reset.b = false ∧
  State.reset.v = false ∧ State.reset.n = false ∧ State.reset.cyc = 0 ∧ State.reset.halted = false ∧
  State.reset.haltOpcode = 0 ∧ State.reset.running = false ∧
  ∀ p : Addr, (State.reset.mem.read p).toNat = if p.toNat = 0xFFFC then 0x4C else 0x00

/-- R242, R244: after reset, loading the entry address E at 0xFFFD and 0xFFFE and starting a run, the first iteration
executes the seeded `JMP E`: three accesses, PC = E, nothing else changed. The addresses and the seed are D2 and D6
(log 2); that the host acts by a list of operations is the model's choice (log 8). -/
def Obligations.FirstIterationJumpsToTheEntryAddress : Prop :=
  ∀ (lo hi : Byte),
    ∃ s₁ s₂ s₃ t : State,
      step { State.reset with hostOps := [.load 0xFFFD lo, .load 0xFFFE hi, .run] } = .next s₁ ∧
      step s₁ = .next s₂ ∧ step s₂ = .next s₃ ∧ step s₃ = .next t ∧
      t.pc.toNat = hi.toNat * 256 + lo.toNat ∧ t.running = true ∧
      t.cyc = 3 + Config.extraCycles .jmp .abs false ∧ t.bus.length = 3 ∧
      t = { State.reset with pc := t.pc, running := true, cyc := t.cyc, mem := t.mem, bus := t.bus } ∧
      ∀ p : Addr, t.mem.read p = if p.toNat = 0xFFFD then lo else if p.toNat = 0xFFFE then hi else State.reset.mem.read p

/-- R224 (the spec marks it derived from R196): a host that starts a run with `cancel` 0 at the first sample and 1 at the
second runs exactly one instruction: three steps, one of them the instruction's meaning. The lists are the model's own
(log 7, 8). -/
def Obligations.TheHostCanSingleStep : Prop :=
  ∀ (s t : State) (i : Instr) (rest : List Byte) (ops : List HostOp) (samples : List Bool), s.running = false →
    s.hostOps = .run :: ops → s.cancelIn = false :: true :: samples → decode s.instrBytes = .ok (i, rest) →
    exec i ((startRun { s with hostOps := ops }).afterFetch i.length) = .next t →
    ∃ u : State, step s = .next u ∧ step u = .next t ∧
      step t = .next { t with running := false, cancelIn := samples, bus := [] }

/-! ## Whole-machine results -/

/-- R41: the invariant holds right after reset. -/
def Obligations.ResetMeetsTheInvariant : Prop := State.reset.Inv

/-- R25, R29 to R31, R34, R36, R210, R253 and the canonical form of memory: every step keeps the invariant, from every
state that meets it, reached or not. The rules that say so of a whole run are marked derived in the spec; `SP_RESET` is D4
(log 2), the canonical form is log 15, the list of accesses log 9. -/
def Obligations.EveryStepKeepsTheInvariant : Prop := ∀ s t : State, s.Inv → step s = .next t → t.Inv

/-- R173: a call, then anything that leaves the two stack cells alone and brings SP back to where the call left it, then
a return: PC is the address after the call and SP its value before, for every SP. Stated on steps: `s` stands at the
JSR, `u` at the RTS. The spec marks it derived; the two cells rest on the stack page D3 and the order of push and pull D5
(log 2, 3). -/
def Obligations.ReturnResumesAfterTheCall : Prop :=
  ∀ (s t u : State) (lo8 hi8 : Byte) (rest rest' : List Byte), s.Iterating →
    decode s.instrBytes = .ok (.jsrAbs lo8 hi8, rest) → step s = .next t →
    u.Iterating → decode u.instrBytes = .ok (.rtsImp, rest') → u.sp = t.sp →
    u.mem.read (stackAddr s.sp) = t.mem.read (stackAddr s.sp) →
    u.mem.read (stackAddr (s.sp - 1)) = t.mem.read (stackAddr (s.sp - 1)) →
    ∃ w : State, step u = .next w ∧ w.pc.toNat = (s.pc.toNat + 3) % 65536 ∧ w.sp = s.sp

/-- R35, R253: "dropping `CYC` from the model changes no other state and no outcome": two states that differ only in CYC
(and in what the memory port last showed, log 9) step to states that differ only in CYC. -/
def Obligations.NothingDependsOnTheCycleCounter : Prop :=
  ∀ (s t : State) (k : Nat) (accs : List BusAccess), step s = .next t →
    ∃ k' : Nat, step { s with cyc := k, bus := accs } = .next { t with cyc := k' }

/-- R26, R29 to R33: no instruction reads a flag other than C, and C is read by ADC alone: with the other flags (and, for
an instruction other than ADC, C too) set otherwise, the registers, memory, C and V that the instruction writes come
out the same. -/
def Obligations.OnlyAdcReadsAFlag : Prop :=
  ∀ (i : Instr) (s t : State) (c' z' i' d' b' v' n' : Bool), exec i s = .next t → (i.operation = .adc → c' = s.c) →
    exec i { s with c := c', z := z', i := i', d := d', b := b', v := v', n := n' } =
      .next { t with c := if i.writesC then t.c else c', z := if i.writesZN then t.z else z', i := i', d := d', b := b',
                     v := if i.writesV then t.v else v', n := if i.writesZN then t.n else n' }

/-- R68, R247 (the spec marks the first derived): self-modifying code takes effect at once: every byte that a step writes
is what a fetch at that address returns next, and what the next instruction there begins with. The memory port is the
model's own field (log 9). -/
def Obligations.AStoreIsSeenByTheNextFetch : Prop :=
  ∀ (s t : State) (p : Addr) (w : Byte), step s = .next t → BusAccess.write p w ∈ t.bus →
    (fetchByte (t.setPc p)).1 = w ∧ (t.setPc p).instrByte 0 = w
end

