-- ==== Sys2Proof/Laws/Words.lean ====
section
/-!
SUPPORT. The integer readings of the bit operations of the model (spec/00_scope.md R7, R8).
-/
namespace Sys2Proof.Machine

@[simp] theorem word_toNat (hi lo : Byte) : (word hi lo).toNat = hi.toNat * 256 + lo.toNat := by
  have h := lo.isLt
  simp only [word, BitVec.toNat_append, Nat.shiftLeft_eq]
  rw [← Nat.shiftLeft_eq, ← Nat.shiftLeft_add_eq_or_of_lt h, Nat.shiftLeft_eq]

@[simp] theorem hiByte_toNat (w : Addr) : (hiByte w).toNat = w.toNat / 256 := by
  have h := w.isLt
  simp only [hiByte, BitVec.extractLsb'_toNat, Nat.shiftRight_eq_div_pow]
  omega

@[simp] theorem loByte_toNat (w : Addr) : (loByte w).toNat = w.toNat % 256 := by
  simp [loByte, BitVec.extractLsb'_toNat]

@[simp] theorem zext16_toNat (v : Byte) : (zext16 v).toNat = v.toNat := by
  have h := v.isLt
  simp only [zext16, BitVec.toNat_setWidth]
  omega

@[simp] theorem word_hiByte_loByte (w : Addr) : word (hiByte w) (loByte w) = w := by
  apply BitVec.eq_of_toNat_eq
  simp only [word_toNat, hiByte_toNat, loByte_toNat]
  omega

/-- The stack address never leaves the stack page (spec/20_memory.md R60). -/
@[simp] theorem stackAddr_toNat (p : Byte) : (stackAddr p).toNat = 0x0100 + p.toNat := by
  have h := p.isLt
  simp only [stackAddr, stackBase, BitVec.toNat_add, zext16_toNat]
  have e : BitVec.toNat (256 : Addr) = 256 := rfl
  omega

theorem stackAddr_injective {p q : Byte} (h : stackAddr p = stackAddr q) : p = q := by
  have h' := congrArg BitVec.toNat h
  simp only [stackAddr_toNat] at h'
  exact BitVec.eq_of_toNat_eq (by omega)

theorem bit7_eq_decide (v : Byte) : bit7 v = decide (128 ≤ v.toNat) := by
  have h := v.isLt
  rw [bit7, ← BitVec.msb_eq_getLsbD_last v, BitVec.msb_eq_decide]

theorem eaAbs_toNat (lo8 hi8 : Byte) : (eaAbs lo8 hi8).toNat = hi8.toNat * 256 + lo8.toNat := word_toNat _ _

end Sys2Proof.Machine
end

