-- ==== Sys2Proof/Laws/Numbers.lean ====
section
/-!
SUPPORT. The bit operations of the model against the spec's integer arithmetic: addresses, the stack, the flags.
-/
namespace Sys2Proof.Machine

theorem addrOf_toNat_add (p : Addr) (k : Nat) : addrOf (p.toNat + k) = p + BitVec.ofNat 16 k := by
  apply BitVec.eq_of_toNat_eq
  simp [addrOf]

theorem addrOf_succ (p : Addr) : addrOf (p.toNat + 1) = p + 1 := addrOf_toNat_add p 1

theorem succ_ne_self (p : Addr) : p + 1 ≠ p := by
  intro h
  have h₁ := congrArg BitVec.toNat h
  have := p.isLt
  simp at h₁
  omega

/-- A word is its two bytes. -/
theorem word_of_bytes (w : Addr) : word (BitVec.ofNat 8 (w.toNat / 256)) (BitVec.ofNat 8 (w.toNat % 256)) = w := by
  apply BitVec.eq_of_toNat_eq
  have := w.isLt
  simp
  omega

/-- The return address: PC less one, modulo 65536. -/
theorem pred_toNat (p : Addr) : (p - 1).toNat = (p.toNat + 65535) % 65536 := by
  have := p.isLt
  simp [BitVec.toNat_sub]
  omega

/-! ## SP and the stack page -/

theorem sp_add_255 (w : Byte) : BitVec.ofNat 8 ((w.toNat + 255) % 256) = w - 1 := by
  apply BitVec.eq_of_toNat_eq
  have := w.isLt
  simp [BitVec.toNat_sub]
  omega

theorem sp_add_1 (w : Byte) : BitVec.ofNat 8 ((w.toNat + 1) % 256) = w + 1 := by
  apply BitVec.eq_of_toNat_eq
  simp

theorem sp_add_2 (w : Byte) : BitVec.ofNat 8 ((w.toNat + 2) % 256) = w + 1 + 1 := by
  apply BitVec.eq_of_toNat_eq
  simp

theorem sp_add_254 (w : Byte) : BitVec.ofNat 8 ((w.toNat + 254) % 256) = w - 1 - 1 := by
  apply BitVec.eq_of_toNat_eq
  have := w.isLt
  simp [BitVec.toNat_sub]
  omega

theorem stack_at (w : Byte) : addrOf (0x0100 + w.toNat) = stackAddr w := by
  apply BitVec.eq_of_toNat_eq
  have := w.isLt
  simp [addrOf]
  omega

theorem stack_below (w : Byte) : addrOf (0x0100 + (w.toNat + 255) % 256) = stackAddr (w - 1) := by
  apply BitVec.eq_of_toNat_eq
  have := w.isLt
  simp [addrOf, BitVec.toNat_sub]
  omega

theorem stack_above (w : Byte) : addrOf (0x0100 + (w.toNat + 1) % 256) = stackAddr (w + 1) := by
  apply BitVec.eq_of_toNat_eq
  have := w.isLt
  simp [addrOf]
  omega

theorem stack_above_two (w : Byte) : addrOf (0x0100 + (w.toNat + 2) % 256) = stackAddr (w + 1 + 1) := by
  apply BitVec.eq_of_toNat_eq
  have := w.isLt
  simp [addrOf]
  omega

/-- The two cells of a pushed word are two. -/
theorem stackAddr_ne_below (w : Byte) : stackAddr w ≠ stackAddr (w - 1) := by
  intro h
  have h₁ := congrArg BitVec.toNat (stackAddr_injective h)
  have h₂ : (1 : Byte).toNat = 1 := rfl
  have := w.isLt
  rw [BitVec.toNat_sub] at h₁
  omega

/-! ## Effective addresses -/

theorem addrOf_zp (d8 : Byte) : addrOf d8.toNat = eaZp d8 := by
  apply BitVec.eq_of_toNat_eq
  have := d8.isLt
  simp [addrOf, eaZp]
  omega

theorem addrOf_zp_indexed (d8 k : Byte) : addrOf ((d8.toNat + k.toNat) % 256) = zext16 (d8 + k) := by
  apply BitVec.eq_of_toNat_eq
  simp [addrOf]
  omega

theorem addrOf_abs (lo8 hi8 : Byte) : addrOf (hi8.toNat * 256 + lo8.toNat) = word hi8 lo8 := by
  apply BitVec.eq_of_toNat_eq
  have := lo8.isLt
  have := hi8.isLt
  simp [addrOf]
  omega

theorem addrOf_abs_indexed (lo8 hi8 k : Byte) :
    addrOf (hi8.toNat * 256 + lo8.toNat + k.toNat) = word hi8 lo8 + zext16 k := by
  apply BitVec.eq_of_toNat_eq
  simp [addrOf]

/-- A page is crossed exactly when the index carries out of the low byte. -/
theorem pageCrossed_eq (lo8 hi8 k : Byte) :
    pageCrossed (word hi8 lo8) (word hi8 lo8 + zext16 k) = decide (256 ≤ lo8.toNat + k.toNat) := by
  have := lo8.isLt
  have := hi8.isLt
  have := k.isLt
  rw [pageCrossed, bne, Bool.eq_iff_iff]
  simp only [Bool.not_eq_true', beq_eq_false_iff_ne, ne_eq, decide_eq_true_eq]
  rw [← BitVec.toNat_inj]
  simp
  omega

/-! ## Flags and results -/

theorem zero_eq_decide (w : Byte) : (w == 0x00) = decide (w.toNat = 0) := by
  rw [Bool.eq_iff_iff]
  simp [← BitVec.toNat_inj]

theorem adcResult_eq (a op : Byte) (c : Bool) :
    adcResult a op c = BitVec.ofNat 8 ((a.toNat + op.toNat + (if c then 1 else 0)) % 256) := by
  apply BitVec.eq_of_toNat_eq
  cases c <;> simp [adcResult, sum9]

theorem adcCarry_eq (a op : Byte) (c : Bool) :
    adcCarry a op c = decide (256 ≤ a.toNat + op.toNat + (if c then 1 else 0)) := by
  have := a.isLt
  have := op.isLt
  have h : sum9 a op c = a.toNat + op.toNat + (if c then 1 else 0) := by cases c <;> simp [sum9]
  rw [adcCarry, h, Nat.testBit_eq_decide_div_mod_eq, Bool.eq_iff_iff]
  simp only [decide_eq_true_eq]
  split <;> omega

theorem adcOverflow_eq (a op : Byte) (c : Bool) :
    adcOverflow a op c =
      decide ((128 ≤ a.toNat ↔ 128 ≤ op.toNat) ∧ ¬(128 ≤ (adcResult a op c).toNat ↔ 128 ≤ a.toNat)) := by
  rw [adcOverflow, bit7_eq_decide, bit7_eq_decide, bit7_eq_decide, Bool.eq_iff_iff]
  simp

theorem aslResult_eq (w : Byte) : aslResult w = BitVec.ofNat 8 (2 * w.toNat % 256) := by
  apply BitVec.eq_of_toNat_eq
  simp [aslResult, Nat.shiftLeft_eq, Nat.mul_comm]

end Sys2Proof.Machine
end

