-- ==== Sys2Proof/Laws/Memory.lean ====
section
/-!
SUPPORT. The laws of the cells: a read after a write, and that every memory operation keeps the canonical form.
-/
namespace Sys2Proof.Machine

theorem cellAt_insertCell_self (a : Nat) (v : Byte) (m : Memory) : cellAt a (insertCell a v m) = v := by
  induction m with
  | nil => simp [insertCell, cellAt]
  | cons cell rest ih =>
    simp only [insertCell]
    split
    · simp [cellAt]
    · split
      · simp [cellAt]
      · have h : cell.1 ≠ a := by omega
        simp [cellAt, h, ih]

theorem cellAt_insertCell_ne {a p : Nat} (h : p ≠ a) (v : Byte) (m : Memory) :
    cellAt p (insertCell a v m) = cellAt p m := by
  induction m with
  | nil => simp [insertCell, cellAt, h.symm]
  | cons cell rest ih =>
    simp only [insertCell]
    split
    · simp [cellAt, h.symm]
    · split
      · have h' : cell.1 ≠ p := by omega
        simp [cellAt, h.symm, h']
      · simp [cellAt, ih]

theorem cellAt_removeCell_self (a : Nat) (m : Memory) : cellAt a (removeCell a m) = memBackground a := by
  induction m with
  | nil => rfl
  | cons cell rest ih =>
    simp only [removeCell]
    split
    · exact ih
    · simp [cellAt, *]

theorem cellAt_removeCell_ne {a p : Nat} (h : p ≠ a) (m : Memory) : cellAt p (removeCell a m) = cellAt p m := by
  induction m with
  | nil => rfl
  | cons cell rest ih =>
    simp only [removeCell]
    split
    · have h' : cell.1 ≠ p := by omega
      simp [cellAt, ih, h']
    · simp [cellAt, ih]

@[simp] theorem Memory.read_write_self (m : Memory) (a : Addr) (v : Byte) : (m.write a v).read a = v := by
  simp only [Memory.read, Memory.write]
  split
  · rw [cellAt_removeCell_self]; simp [*]
  · exact cellAt_insertCell_self _ _ _

theorem Memory.read_write_ne {a p : Addr} (h : p ≠ a) (m : Memory) (v : Byte) : (m.write a v).read p = m.read p := by
  have h' : p.toNat ≠ a.toNat := fun e => h (BitVec.eq_of_toNat_eq e)
  simp only [Memory.read, Memory.write]
  split
  · exact cellAt_removeCell_ne h' _
  · exact cellAt_insertCell_ne h' _ _

theorem Memory.read_write (m : Memory) (a p : Addr) (v : Byte) : (m.write a v).read p = if p = a then v else m.read p := by
  split
  · subst_vars; exact Memory.read_write_self _ _ _
  · exact Memory.read_write_ne ‹_› _ _

theorem canonicalAbove_cons (lo : Nat) (cell : Host.Cell) (rest : Memory) :
    canonicalAbove lo (cell :: rest) = true ↔
      lo ≤ cell.1 ∧ cell.1 < 65536 ∧ cell.2 ≠ memBackground cell.1 ∧ canonicalAbove (cell.1 + 1) rest = true := by
  simp [canonicalAbove, and_assoc]

theorem canonicalAbove_weaken {lo lo' : Nat} (h : lo' ≤ lo) {m : Memory} (hm : canonicalAbove lo m = true) :
    canonicalAbove lo' m = true := by
  cases m with
  | nil => rfl
  | cons cell rest =>
    rw [canonicalAbove_cons] at hm ⊢
    exact ⟨by omega, hm.2⟩

theorem canonicalAbove_insertCell {lo a : Nat} {v : Byte} {m : Memory} (hlo : lo ≤ a) (ha : a < 65536)
    (hv : v ≠ memBackground a) (hm : canonicalAbove lo m = true) : canonicalAbove lo (insertCell a v m) = true := by
  induction m generalizing lo with
  | nil => simp [insertCell, canonicalAbove, *]
  | cons cell rest ih =>
    rw [canonicalAbove_cons] at hm
    obtain ⟨h1, h2, h3, h4⟩ := hm
    simp only [insertCell]
    split
    · simp only [canonicalAbove_cons]
      exact ⟨hlo, ha, hv, by omega, h2, h3, h4⟩
    · split
      · rw [canonicalAbove_cons]
        exact ⟨hlo, ha, hv, canonicalAbove_weaken (by simp only; omega) h4⟩
      · rw [canonicalAbove_cons]
        exact ⟨h1, h2, h3, ih (by omega) h4⟩

theorem canonicalAbove_removeCell {lo a : Nat} {m : Memory} (hm : canonicalAbove lo m = true) :
    canonicalAbove lo (removeCell a m) = true := by
  induction m generalizing lo with
  | nil => rfl
  | cons cell rest ih =>
    rw [canonicalAbove_cons] at hm
    obtain ⟨h1, h2, h3, h4⟩ := hm
    simp only [removeCell]
    split
    · exact ih (canonicalAbove_weaken (by omega) h4)
    · rw [canonicalAbove_cons]
      exact ⟨h1, h2, h3, ih h4⟩

/-- Every memory operation keeps the canonical form. -/
theorem Memory.wf_write {m : Memory} (h : m.wf = true) (a : Addr) (v : Byte) : (m.write a v).wf = true := by
  simp only [Memory.wf, Memory.write] at h ⊢
  split
  · exact canonicalAbove_removeCell h
  · exact canonicalAbove_insertCell (Nat.zero_le _) a.isLt ‹_› h

theorem Memory.wf_nil : Memory.wf [] = true := rfl

end Sys2Proof.Machine
end

