-- ==== Sys2Proof/Laws/State.lean ====
section
/-!
SUPPORT. One lemma per field per update of State, true by rfl, so that no proof unfolds a record update.
-/
namespace Sys2Proof.Machine

variable (s : State)

/-! `State.access` writes cyc, bus and nothing else. -/

@[simp] theorem State.access_pc (acc : BusAccess) : (s.access acc).pc = s.pc := rfl
@[simp] theorem State.access_sp (acc : BusAccess) : (s.access acc).sp = s.sp := rfl
@[simp] theorem State.access_a (acc : BusAccess) : (s.access acc).a = s.a := rfl
@[simp] theorem State.access_x (acc : BusAccess) : (s.access acc).x = s.x := rfl
@[simp] theorem State.access_y (acc : BusAccess) : (s.access acc).y = s.y := rfl
@[simp] theorem State.access_c (acc : BusAccess) : (s.access acc).c = s.c := rfl
@[simp] theorem State.access_z (acc : BusAccess) : (s.access acc).z = s.z := rfl
@[simp] theorem State.access_i (acc : BusAccess) : (s.access acc).i = s.i := rfl
@[simp] theorem State.access_d (acc : BusAccess) : (s.access acc).d = s.d := rfl
@[simp] theorem State.access_b (acc : BusAccess) : (s.access acc).b = s.b := rfl
@[simp] theorem State.access_v (acc : BusAccess) : (s.access acc).v = s.v := rfl
@[simp] theorem State.access_n (acc : BusAccess) : (s.access acc).n = s.n := rfl
@[simp] theorem State.access_mem (acc : BusAccess) : (s.access acc).mem = s.mem := rfl
@[simp] theorem State.access_cyc (acc : BusAccess) : (s.access acc).cyc = s.cyc + 1 := rfl
@[simp] theorem State.access_halted (acc : BusAccess) : (s.access acc).halted = s.halted := rfl
@[simp] theorem State.access_haltOpcode (acc : BusAccess) : (s.access acc).haltOpcode = s.haltOpcode := rfl
@[simp] theorem State.access_running (acc : BusAccess) : (s.access acc).running = s.running := rfl
@[simp] theorem State.access_cancelIn (acc : BusAccess) : (s.access acc).cancelIn = s.cancelIn := rfl
@[simp] theorem State.access_hostOps (acc : BusAccess) : (s.access acc).hostOps = s.hostOps := rfl
@[simp] theorem State.access_bus (acc : BusAccess) : (s.access acc).bus = s.bus ++ [acc] := rfl

/-! `State.setCell` writes mem and nothing else. -/

@[simp] theorem State.setCell_pc (p : Addr) (w : Byte) : (s.setCell p w).pc = s.pc := rfl
@[simp] theorem State.setCell_sp (p : Addr) (w : Byte) : (s.setCell p w).sp = s.sp := rfl
@[simp] theorem State.setCell_a (p : Addr) (w : Byte) : (s.setCell p w).a = s.a := rfl
@[simp] theorem State.setCell_x (p : Addr) (w : Byte) : (s.setCell p w).x = s.x := rfl
@[simp] theorem State.setCell_y (p : Addr) (w : Byte) : (s.setCell p w).y = s.y := rfl
@[simp] theorem State.setCell_c (p : Addr) (w : Byte) : (s.setCell p w).c = s.c := rfl
@[simp] theorem State.setCell_z (p : Addr) (w : Byte) : (s.setCell p w).z = s.z := rfl
@[simp] theorem State.setCell_i (p : Addr) (w : Byte) : (s.setCell p w).i = s.i := rfl
@[simp] theorem State.setCell_d (p : Addr) (w : Byte) : (s.setCell p w).d = s.d := rfl
@[simp] theorem State.setCell_b (p : Addr) (w : Byte) : (s.setCell p w).b = s.b := rfl
@[simp] theorem State.setCell_v (p : Addr) (w : Byte) : (s.setCell p w).v = s.v := rfl
@[simp] theorem State.setCell_n (p : Addr) (w : Byte) : (s.setCell p w).n = s.n := rfl
@[simp] theorem State.setCell_mem (p : Addr) (w : Byte) : (s.setCell p w).mem = s.mem.write p w := rfl
@[simp] theorem State.setCell_cyc (p : Addr) (w : Byte) : (s.setCell p w).cyc = s.cyc := rfl
@[simp] theorem State.setCell_halted (p : Addr) (w : Byte) : (s.setCell p w).halted = s.halted := rfl
@[simp] theorem State.setCell_haltOpcode (p : Addr) (w : Byte) : (s.setCell p w).haltOpcode = s.haltOpcode := rfl
@[simp] theorem State.setCell_running (p : Addr) (w : Byte) : (s.setCell p w).running = s.running := rfl
@[simp] theorem State.setCell_cancelIn (p : Addr) (w : Byte) : (s.setCell p w).cancelIn = s.cancelIn := rfl
@[simp] theorem State.setCell_hostOps (p : Addr) (w : Byte) : (s.setCell p w).hostOps = s.hostOps := rfl
@[simp] theorem State.setCell_bus (p : Addr) (w : Byte) : (s.setCell p w).bus = s.bus := rfl

/-! `State.setPc` writes pc and nothing else. -/

@[simp] theorem State.setPc_pc (p : Addr) : (s.setPc p).pc = p := rfl
@[simp] theorem State.setPc_sp (p : Addr) : (s.setPc p).sp = s.sp := rfl
@[simp] theorem State.setPc_a (p : Addr) : (s.setPc p).a = s.a := rfl
@[simp] theorem State.setPc_x (p : Addr) : (s.setPc p).x = s.x := rfl
@[simp] theorem State.setPc_y (p : Addr) : (s.setPc p).y = s.y := rfl
@[simp] theorem State.setPc_c (p : Addr) : (s.setPc p).c = s.c := rfl
@[simp] theorem State.setPc_z (p : Addr) : (s.setPc p).z = s.z := rfl
@[simp] theorem State.setPc_i (p : Addr) : (s.setPc p).i = s.i := rfl
@[simp] theorem State.setPc_d (p : Addr) : (s.setPc p).d = s.d := rfl
@[simp] theorem State.setPc_b (p : Addr) : (s.setPc p).b = s.b := rfl
@[simp] theorem State.setPc_v (p : Addr) : (s.setPc p).v = s.v := rfl
@[simp] theorem State.setPc_n (p : Addr) : (s.setPc p).n = s.n := rfl
@[simp] theorem State.setPc_mem (p : Addr) : (s.setPc p).mem = s.mem := rfl
@[simp] theorem State.setPc_cyc (p : Addr) : (s.setPc p).cyc = s.cyc := rfl
@[simp] theorem State.setPc_halted (p : Addr) : (s.setPc p).halted = s.halted := rfl
@[simp] theorem State.setPc_haltOpcode (p : Addr) : (s.setPc p).haltOpcode = s.haltOpcode := rfl
@[simp] theorem State.setPc_running (p : Addr) : (s.setPc p).running = s.running := rfl
@[simp] theorem State.setPc_cancelIn (p : Addr) : (s.setPc p).cancelIn = s.cancelIn := rfl
@[simp] theorem State.setPc_hostOps (p : Addr) : (s.setPc p).hostOps = s.hostOps := rfl
@[simp] theorem State.setPc_bus (p : Addr) : (s.setPc p).bus = s.bus := rfl

/-! `State.setSp` writes sp and nothing else. -/

@[simp] theorem State.setSp_pc (w : Byte) : (s.setSp w).pc = s.pc := rfl
@[simp] theorem State.setSp_sp (w : Byte) : (s.setSp w).sp = w := rfl
@[simp] theorem State.setSp_a (w : Byte) : (s.setSp w).a = s.a := rfl
@[simp] theorem State.setSp_x (w : Byte) : (s.setSp w).x = s.x := rfl
@[simp] theorem State.setSp_y (w : Byte) : (s.setSp w).y = s.y := rfl
@[simp] theorem State.setSp_c (w : Byte) : (s.setSp w).c = s.c := rfl
@[simp] theorem State.setSp_z (w : Byte) : (s.setSp w).z = s.z := rfl
@[simp] theorem State.setSp_i (w : Byte) : (s.setSp w).i = s.i := rfl
@[simp] theorem State.setSp_d (w : Byte) : (s.setSp w).d = s.d := rfl
@[simp] theorem State.setSp_b (w : Byte) : (s.setSp w).b = s.b := rfl
@[simp] theorem State.setSp_v (w : Byte) : (s.setSp w).v = s.v := rfl
@[simp] theorem State.setSp_n (w : Byte) : (s.setSp w).n = s.n := rfl
@[simp] theorem State.setSp_mem (w : Byte) : (s.setSp w).mem = s.mem := rfl
@[simp] theorem State.setSp_cyc (w : Byte) : (s.setSp w).cyc = s.cyc := rfl
@[simp] theorem State.setSp_halted (w : Byte) : (s.setSp w).halted = s.halted := rfl
@[simp] theorem State.setSp_haltOpcode (w : Byte) : (s.setSp w).haltOpcode = s.haltOpcode := rfl
@[simp] theorem State.setSp_running (w : Byte) : (s.setSp w).running = s.running := rfl
@[simp] theorem State.setSp_cancelIn (w : Byte) : (s.setSp w).cancelIn = s.cancelIn := rfl
@[simp] theorem State.setSp_hostOps (w : Byte) : (s.setSp w).hostOps = s.hostOps := rfl
@[simp] theorem State.setSp_bus (w : Byte) : (s.setSp w).bus = s.bus := rfl

/-! `State.setA` writes a and nothing else. -/

@[simp] theorem State.setA_pc (w : Byte) : (s.setA w).pc = s.pc := rfl
@[simp] theorem State.setA_sp (w : Byte) : (s.setA w).sp = s.sp := rfl
@[simp] theorem State.setA_a (w : Byte) : (s.setA w).a = w := rfl
@[simp] theorem State.setA_x (w : Byte) : (s.setA w).x = s.x := rfl
@[simp] theorem State.setA_y (w : Byte) : (s.setA w).y = s.y := rfl
@[simp] theorem State.setA_c (w : Byte) : (s.setA w).c = s.c := rfl
@[simp] theorem State.setA_z (w : Byte) : (s.setA w).z = s.z := rfl
@[simp] theorem State.setA_i (w : Byte) : (s.setA w).i = s.i := rfl
@[simp] theorem State.setA_d (w : Byte) : (s.setA w).d = s.d := rfl
@[simp] theorem State.setA_b (w : Byte) : (s.setA w).b = s.b := rfl
@[simp] theorem State.setA_v (w : Byte) : (s.setA w).v = s.v := rfl
@[simp] theorem State.setA_n (w : Byte) : (s.setA w).n = s.n := rfl
@[simp] theorem State.setA_mem (w : Byte) : (s.setA w).mem = s.mem := rfl
@[simp] theorem State.setA_cyc (w : Byte) : (s.setA w).cyc = s.cyc := rfl
@[simp] theorem State.setA_halted (w : Byte) : (s.setA w).halted = s.halted := rfl
@[simp] theorem State.setA_haltOpcode (w : Byte) : (s.setA w).haltOpcode = s.haltOpcode := rfl
@[simp] theorem State.setA_running (w : Byte) : (s.setA w).running = s.running := rfl
@[simp] theorem State.setA_cancelIn (w : Byte) : (s.setA w).cancelIn = s.cancelIn := rfl
@[simp] theorem State.setA_hostOps (w : Byte) : (s.setA w).hostOps = s.hostOps := rfl
@[simp] theorem State.setA_bus (w : Byte) : (s.setA w).bus = s.bus := rfl

/-! `State.setX` writes x and nothing else. -/

@[simp] theorem State.setX_pc (w : Byte) : (s.setX w).pc = s.pc := rfl
@[simp] theorem State.setX_sp (w : Byte) : (s.setX w).sp = s.sp := rfl
@[simp] theorem State.setX_a (w : Byte) : (s.setX w).a = s.a := rfl
@[simp] theorem State.setX_x (w : Byte) : (s.setX w).x = w := rfl
@[simp] theorem State.setX_y (w : Byte) : (s.setX w).y = s.y := rfl
@[simp] theorem State.setX_c (w : Byte) : (s.setX w).c = s.c := rfl
@[simp] theorem State.setX_z (w : Byte) : (s.setX w).z = s.z := rfl
@[simp] theorem State.setX_i (w : Byte) : (s.setX w).i = s.i := rfl
@[simp] theorem State.setX_d (w : Byte) : (s.setX w).d = s.d := rfl
@[simp] theorem State.setX_b (w : Byte) : (s.setX w).b = s.b := rfl
@[simp] theorem State.setX_v (w : Byte) : (s.setX w).v = s.v := rfl
@[simp] theorem State.setX_n (w : Byte) : (s.setX w).n = s.n := rfl
@[simp] theorem State.setX_mem (w : Byte) : (s.setX w).mem = s.mem := rfl
@[simp] theorem State.setX_cyc (w : Byte) : (s.setX w).cyc = s.cyc := rfl
@[simp] theorem State.setX_halted (w : Byte) : (s.setX w).halted = s.halted := rfl
@[simp] theorem State.setX_haltOpcode (w : Byte) : (s.setX w).haltOpcode = s.haltOpcode := rfl
@[simp] theorem State.setX_running (w : Byte) : (s.setX w).running = s.running := rfl
@[simp] theorem State.setX_cancelIn (w : Byte) : (s.setX w).cancelIn = s.cancelIn := rfl
@[simp] theorem State.setX_hostOps (w : Byte) : (s.setX w).hostOps = s.hostOps := rfl
@[simp] theorem State.setX_bus (w : Byte) : (s.setX w).bus = s.bus := rfl

/-! `State.setY` writes y and nothing else. -/

@[simp] theorem State.setY_pc (w : Byte) : (s.setY w).pc = s.pc := rfl
@[simp] theorem State.setY_sp (w : Byte) : (s.setY w).sp = s.sp := rfl
@[simp] theorem State.setY_a (w : Byte) : (s.setY w).a = s.a := rfl
@[simp] theorem State.setY_x (w : Byte) : (s.setY w).x = s.x := rfl
@[simp] theorem State.setY_y (w : Byte) : (s.setY w).y = w := rfl
@[simp] theorem State.setY_c (w : Byte) : (s.setY w).c = s.c := rfl
@[simp] theorem State.setY_z (w : Byte) : (s.setY w).z = s.z := rfl
@[simp] theorem State.setY_i (w : Byte) : (s.setY w).i = s.i := rfl
@[simp] theorem State.setY_d (w : Byte) : (s.setY w).d = s.d := rfl
@[simp] theorem State.setY_b (w : Byte) : (s.setY w).b = s.b := rfl
@[simp] theorem State.setY_v (w : Byte) : (s.setY w).v = s.v := rfl
@[simp] theorem State.setY_n (w : Byte) : (s.setY w).n = s.n := rfl
@[simp] theorem State.setY_mem (w : Byte) : (s.setY w).mem = s.mem := rfl
@[simp] theorem State.setY_cyc (w : Byte) : (s.setY w).cyc = s.cyc := rfl
@[simp] theorem State.setY_halted (w : Byte) : (s.setY w).halted = s.halted := rfl
@[simp] theorem State.setY_haltOpcode (w : Byte) : (s.setY w).haltOpcode = s.haltOpcode := rfl
@[simp] theorem State.setY_running (w : Byte) : (s.setY w).running = s.running := rfl
@[simp] theorem State.setY_cancelIn (w : Byte) : (s.setY w).cancelIn = s.cancelIn := rfl
@[simp] theorem State.setY_hostOps (w : Byte) : (s.setY w).hostOps = s.hostOps := rfl
@[simp] theorem State.setY_bus (w : Byte) : (s.setY w).bus = s.bus := rfl

/-! `State.setZN` writes z, n and nothing else. -/

@[simp] theorem State.setZN_pc (w : Byte) : (s.setZN w).pc = s.pc := rfl
@[simp] theorem State.setZN_sp (w : Byte) : (s.setZN w).sp = s.sp := rfl
@[simp] theorem State.setZN_a (w : Byte) : (s.setZN w).a = s.a := rfl
@[simp] theorem State.setZN_x (w : Byte) : (s.setZN w).x = s.x := rfl
@[simp] theorem State.setZN_y (w : Byte) : (s.setZN w).y = s.y := rfl
@[simp] theorem State.setZN_c (w : Byte) : (s.setZN w).c = s.c := rfl
@[simp] theorem State.setZN_z (w : Byte) : (s.setZN w).z = (w == 0x00) := rfl
@[simp] theorem State.setZN_i (w : Byte) : (s.setZN w).i = s.i := rfl
@[simp] theorem State.setZN_d (w : Byte) : (s.setZN w).d = s.d := rfl
@[simp] theorem State.setZN_b (w : Byte) : (s.setZN w).b = s.b := rfl
@[simp] theorem State.setZN_v (w : Byte) : (s.setZN w).v = s.v := rfl
@[simp] theorem State.setZN_n (w : Byte) : (s.setZN w).n = bit7 w := rfl
@[simp] theorem State.setZN_mem (w : Byte) : (s.setZN w).mem = s.mem := rfl
@[simp] theorem State.setZN_cyc (w : Byte) : (s.setZN w).cyc = s.cyc := rfl
@[simp] theorem State.setZN_halted (w : Byte) : (s.setZN w).halted = s.halted := rfl
@[simp] theorem State.setZN_haltOpcode (w : Byte) : (s.setZN w).haltOpcode = s.haltOpcode := rfl
@[simp] theorem State.setZN_running (w : Byte) : (s.setZN w).running = s.running := rfl
@[simp] theorem State.setZN_cancelIn (w : Byte) : (s.setZN w).cancelIn = s.cancelIn := rfl
@[simp] theorem State.setZN_hostOps (w : Byte) : (s.setZN w).hostOps = s.hostOps := rfl
@[simp] theorem State.setZN_bus (w : Byte) : (s.setZN w).bus = s.bus := rfl

/-! `State.setC` writes c and nothing else. -/

@[simp] theorem State.setC_pc (k : Bool) : (s.setC k).pc = s.pc := rfl
@[simp] theorem State.setC_sp (k : Bool) : (s.setC k).sp = s.sp := rfl
@[simp] theorem State.setC_a (k : Bool) : (s.setC k).a = s.a := rfl
@[simp] theorem State.setC_x (k : Bool) : (s.setC k).x = s.x := rfl
@[simp] theorem State.setC_y (k : Bool) : (s.setC k).y = s.y := rfl
@[simp] theorem State.setC_c (k : Bool) : (s.setC k).c = k := rfl
@[simp] theorem State.setC_z (k : Bool) : (s.setC k).z = s.z := rfl
@[simp] theorem State.setC_i (k : Bool) : (s.setC k).i = s.i := rfl
@[simp] theorem State.setC_d (k : Bool) : (s.setC k).d = s.d := rfl
@[simp] theorem State.setC_b (k : Bool) : (s.setC k).b = s.b := rfl
@[simp] theorem State.setC_v (k : Bool) : (s.setC k).v = s.v := rfl
@[simp] theorem State.setC_n (k : Bool) : (s.setC k).n = s.n := rfl
@[simp] theorem State.setC_mem (k : Bool) : (s.setC k).mem = s.mem := rfl
@[simp] theorem State.setC_cyc (k : Bool) : (s.setC k).cyc = s.cyc := rfl
@[simp] theorem State.setC_halted (k : Bool) : (s.setC k).halted = s.halted := rfl
@[simp] theorem State.setC_haltOpcode (k : Bool) : (s.setC k).haltOpcode = s.haltOpcode := rfl
@[simp] theorem State.setC_running (k : Bool) : (s.setC k).running = s.running := rfl
@[simp] theorem State.setC_cancelIn (k : Bool) : (s.setC k).cancelIn = s.cancelIn := rfl
@[simp] theorem State.setC_hostOps (k : Bool) : (s.setC k).hostOps = s.hostOps := rfl
@[simp] theorem State.setC_bus (k : Bool) : (s.setC k).bus = s.bus := rfl

/-! `State.setV` writes v and nothing else. -/

@[simp] theorem State.setV_pc (k : Bool) : (s.setV k).pc = s.pc := rfl
@[simp] theorem State.setV_sp (k : Bool) : (s.setV k).sp = s.sp := rfl
@[simp] theorem State.setV_a (k : Bool) : (s.setV k).a = s.a := rfl
@[simp] theorem State.setV_x (k : Bool) : (s.setV k).x = s.x := rfl
@[simp] theorem State.setV_y (k : Bool) : (s.setV k).y = s.y := rfl
@[simp] theorem State.setV_c (k : Bool) : (s.setV k).c = s.c := rfl
@[simp] theorem State.setV_z (k : Bool) : (s.setV k).z = s.z := rfl
@[simp] theorem State.setV_i (k : Bool) : (s.setV k).i = s.i := rfl
@[simp] theorem State.setV_d (k : Bool) : (s.setV k).d = s.d := rfl
@[simp] theorem State.setV_b (k : Bool) : (s.setV k).b = s.b := rfl
@[simp] theorem State.setV_v (k : Bool) : (s.setV k).v = k := rfl
@[simp] theorem State.setV_n (k : Bool) : (s.setV k).n = s.n := rfl
@[simp] theorem State.setV_mem (k : Bool) : (s.setV k).mem = s.mem := rfl
@[simp] theorem State.setV_cyc (k : Bool) : (s.setV k).cyc = s.cyc := rfl
@[simp] theorem State.setV_halted (k : Bool) : (s.setV k).halted = s.halted := rfl
@[simp] theorem State.setV_haltOpcode (k : Bool) : (s.setV k).haltOpcode = s.haltOpcode := rfl
@[simp] theorem State.setV_running (k : Bool) : (s.setV k).running = s.running := rfl
@[simp] theorem State.setV_cancelIn (k : Bool) : (s.setV k).cancelIn = s.cancelIn := rfl
@[simp] theorem State.setV_hostOps (k : Bool) : (s.setV k).hostOps = s.hostOps := rfl
@[simp] theorem State.setV_bus (k : Bool) : (s.setV k).bus = s.bus := rfl

/-! `extra` writes cyc and nothing else. -/

@[simp] theorem extra_pc (op : Operation) (m : Mode) (k : Bool) : (extra op m k s).pc = s.pc := rfl
@[simp] theorem extra_sp (op : Operation) (m : Mode) (k : Bool) : (extra op m k s).sp = s.sp := rfl
@[simp] theorem extra_a (op : Operation) (m : Mode) (k : Bool) : (extra op m k s).a = s.a := rfl
@[simp] theorem extra_x (op : Operation) (m : Mode) (k : Bool) : (extra op m k s).x = s.x := rfl
@[simp] theorem extra_y (op : Operation) (m : Mode) (k : Bool) : (extra op m k s).y = s.y := rfl
@[simp] theorem extra_c (op : Operation) (m : Mode) (k : Bool) : (extra op m k s).c = s.c := rfl
@[simp] theorem extra_z (op : Operation) (m : Mode) (k : Bool) : (extra op m k s).z = s.z := rfl
@[simp] theorem extra_i (op : Operation) (m : Mode) (k : Bool) : (extra op m k s).i = s.i := rfl
@[simp] theorem extra_d (op : Operation) (m : Mode) (k : Bool) : (extra op m k s).d = s.d := rfl
@[simp] theorem extra_b (op : Operation) (m : Mode) (k : Bool) : (extra op m k s).b = s.b := rfl
@[simp] theorem extra_v (op : Operation) (m : Mode) (k : Bool) : (extra op m k s).v = s.v := rfl
@[simp] theorem extra_n (op : Operation) (m : Mode) (k : Bool) : (extra op m k s).n = s.n := rfl
@[simp] theorem extra_mem (op : Operation) (m : Mode) (k : Bool) : (extra op m k s).mem = s.mem := rfl
@[simp] theorem extra_cyc (op : Operation) (m : Mode) (k : Bool) : (extra op m k s).cyc = s.cyc + Config.extraCycles op m k := rfl
@[simp] theorem extra_halted (op : Operation) (m : Mode) (k : Bool) : (extra op m k s).halted = s.halted := rfl
@[simp] theorem extra_haltOpcode (op : Operation) (m : Mode) (k : Bool) : (extra op m k s).haltOpcode = s.haltOpcode := rfl
@[simp] theorem extra_running (op : Operation) (m : Mode) (k : Bool) : (extra op m k s).running = s.running := rfl
@[simp] theorem extra_cancelIn (op : Operation) (m : Mode) (k : Bool) : (extra op m k s).cancelIn = s.cancelIn := rfl
@[simp] theorem extra_hostOps (op : Operation) (m : Mode) (k : Bool) : (extra op m k s).hostOps = s.hostOps := rfl
@[simp] theorem extra_bus (op : Operation) (m : Mode) (k : Bool) : (extra op m k s).bus = s.bus := rfl

/-! `raiseHalt` writes halted, haltOpcode, running and nothing else. -/

@[simp] theorem raiseHalt_pc (w : Byte) : (raiseHalt w s).pc = s.pc := rfl
@[simp] theorem raiseHalt_sp (w : Byte) : (raiseHalt w s).sp = s.sp := rfl
@[simp] theorem raiseHalt_a (w : Byte) : (raiseHalt w s).a = s.a := rfl
@[simp] theorem raiseHalt_x (w : Byte) : (raiseHalt w s).x = s.x := rfl
@[simp] theorem raiseHalt_y (w : Byte) : (raiseHalt w s).y = s.y := rfl
@[simp] theorem raiseHalt_c (w : Byte) : (raiseHalt w s).c = s.c := rfl
@[simp] theorem raiseHalt_z (w : Byte) : (raiseHalt w s).z = s.z := rfl
@[simp] theorem raiseHalt_i (w : Byte) : (raiseHalt w s).i = s.i := rfl
@[simp] theorem raiseHalt_d (w : Byte) : (raiseHalt w s).d = s.d := rfl
@[simp] theorem raiseHalt_b (w : Byte) : (raiseHalt w s).b = s.b := rfl
@[simp] theorem raiseHalt_v (w : Byte) : (raiseHalt w s).v = s.v := rfl
@[simp] theorem raiseHalt_n (w : Byte) : (raiseHalt w s).n = s.n := rfl
@[simp] theorem raiseHalt_mem (w : Byte) : (raiseHalt w s).mem = s.mem := rfl
@[simp] theorem raiseHalt_cyc (w : Byte) : (raiseHalt w s).cyc = s.cyc := rfl
@[simp] theorem raiseHalt_halted (w : Byte) : (raiseHalt w s).halted = true := rfl
@[simp] theorem raiseHalt_haltOpcode (w : Byte) : (raiseHalt w s).haltOpcode = w := rfl
@[simp] theorem raiseHalt_running (w : Byte) : (raiseHalt w s).running = false := rfl
@[simp] theorem raiseHalt_cancelIn (w : Byte) : (raiseHalt w s).cancelIn = s.cancelIn := rfl
@[simp] theorem raiseHalt_hostOps (w : Byte) : (raiseHalt w s).hostOps = s.hostOps := rfl
@[simp] theorem raiseHalt_bus (w : Byte) : (raiseHalt w s).bus = s.bus := rfl

/-! `State.beginIteration` writes cancelIn, bus and nothing else. -/

@[simp] theorem State.beginIteration_pc : (s.beginIteration).pc = s.pc := rfl
@[simp] theorem State.beginIteration_sp : (s.beginIteration).sp = s.sp := rfl
@[simp] theorem State.beginIteration_a : (s.beginIteration).a = s.a := rfl
@[simp] theorem State.beginIteration_x : (s.beginIteration).x = s.x := rfl
@[simp] theorem State.beginIteration_y : (s.beginIteration).y = s.y := rfl
@[simp] theorem State.beginIteration_c : (s.beginIteration).c = s.c := rfl
@[simp] theorem State.beginIteration_z : (s.beginIteration).z = s.z := rfl
@[simp] theorem State.beginIteration_i : (s.beginIteration).i = s.i := rfl
@[simp] theorem State.beginIteration_d : (s.beginIteration).d = s.d := rfl
@[simp] theorem State.beginIteration_b : (s.beginIteration).b = s.b := rfl
@[simp] theorem State.beginIteration_v : (s.beginIteration).v = s.v := rfl
@[simp] theorem State.beginIteration_n : (s.beginIteration).n = s.n := rfl
@[simp] theorem State.beginIteration_mem : (s.beginIteration).mem = s.mem := rfl
@[simp] theorem State.beginIteration_cyc : (s.beginIteration).cyc = s.cyc := rfl
@[simp] theorem State.beginIteration_halted : (s.beginIteration).halted = s.halted := rfl
@[simp] theorem State.beginIteration_haltOpcode : (s.beginIteration).haltOpcode = s.haltOpcode := rfl
@[simp] theorem State.beginIteration_running : (s.beginIteration).running = s.running := rfl
@[simp] theorem State.beginIteration_cancelIn : (s.beginIteration).cancelIn = s.cancelIn.tail := rfl
@[simp] theorem State.beginIteration_hostOps : (s.beginIteration).hostOps = s.hostOps := rfl
@[simp] theorem State.beginIteration_bus : (s.beginIteration).bus = [] := rfl

/-! `endCancelled` writes running and nothing else. -/

@[simp] theorem endCancelled_pc : (endCancelled s).pc = s.pc := rfl
@[simp] theorem endCancelled_sp : (endCancelled s).sp = s.sp := rfl
@[simp] theorem endCancelled_a : (endCancelled s).a = s.a := rfl
@[simp] theorem endCancelled_x : (endCancelled s).x = s.x := rfl
@[simp] theorem endCancelled_y : (endCancelled s).y = s.y := rfl
@[simp] theorem endCancelled_c : (endCancelled s).c = s.c := rfl
@[simp] theorem endCancelled_z : (endCancelled s).z = s.z := rfl
@[simp] theorem endCancelled_i : (endCancelled s).i = s.i := rfl
@[simp] theorem endCancelled_d : (endCancelled s).d = s.d := rfl
@[simp] theorem endCancelled_b : (endCancelled s).b = s.b := rfl
@[simp] theorem endCancelled_v : (endCancelled s).v = s.v := rfl
@[simp] theorem endCancelled_n : (endCancelled s).n = s.n := rfl
@[simp] theorem endCancelled_mem : (endCancelled s).mem = s.mem := rfl
@[simp] theorem endCancelled_cyc : (endCancelled s).cyc = s.cyc := rfl
@[simp] theorem endCancelled_halted : (endCancelled s).halted = s.halted := rfl
@[simp] theorem endCancelled_haltOpcode : (endCancelled s).haltOpcode = s.haltOpcode := rfl
@[simp] theorem endCancelled_running : (endCancelled s).running = false := rfl
@[simp] theorem endCancelled_cancelIn : (endCancelled s).cancelIn = s.cancelIn := rfl
@[simp] theorem endCancelled_hostOps : (endCancelled s).hostOps = s.hostOps := rfl
@[simp] theorem endCancelled_bus : (endCancelled s).bus = s.bus := rfl

/-! `startRun` writes cyc, halted, running and nothing else. -/

@[simp] theorem startRun_pc : (startRun s).pc = s.pc := rfl
@[simp] theorem startRun_sp : (startRun s).sp = s.sp := rfl
@[simp] theorem startRun_a : (startRun s).a = s.a := rfl
@[simp] theorem startRun_x : (startRun s).x = s.x := rfl
@[simp] theorem startRun_y : (startRun s).y = s.y := rfl
@[simp] theorem startRun_c : (startRun s).c = s.c := rfl
@[simp] theorem startRun_z : (startRun s).z = s.z := rfl
@[simp] theorem startRun_i : (startRun s).i = s.i := rfl
@[simp] theorem startRun_d : (startRun s).d = s.d := rfl
@[simp] theorem startRun_b : (startRun s).b = s.b := rfl
@[simp] theorem startRun_v : (startRun s).v = s.v := rfl
@[simp] theorem startRun_n : (startRun s).n = s.n := rfl
@[simp] theorem startRun_mem : (startRun s).mem = s.mem := rfl
@[simp] theorem startRun_cyc : (startRun s).cyc = 0 := rfl
@[simp] theorem startRun_halted : (startRun s).halted = false := rfl
@[simp] theorem startRun_haltOpcode : (startRun s).haltOpcode = s.haltOpcode := rfl
@[simp] theorem startRun_running : (startRun s).running = true := rfl
@[simp] theorem startRun_cancelIn : (startRun s).cancelIn = s.cancelIn := rfl
@[simp] theorem startRun_hostOps : (startRun s).hostOps = s.hostOps := rfl
@[simp] theorem startRun_bus : (startRun s).bus = s.bus := rfl

end Sys2Proof.Machine
end

