-- ==== Sys2Proof/Laws/Ops.lean ====
section
/-!
SUPPORT. What each shared operation does, said once as an equation on the whole state.
-/
namespace Sys2Proof.Machine

/-- A read counts one cycle, is seen on the memory port, and changes nothing else. -/
theorem memRead_eq (p : Addr) (s : State) :
    memRead p s = (s.mem.read p, { s with cyc := s.cyc + 1, bus := s.bus ++ [.read p (s.mem.read p)] }) := rfl

theorem memWrite_eq (p : Addr) (w : Byte) (s : State) :
    memWrite p w s = { s with mem := s.mem.write p w, cyc := s.cyc + 1, bus := s.bus ++ [.write p w] } := rfl

theorem fetchByte_eq (s : State) :
    fetchByte s = (s.mem.read s.pc,
      { s with pc := s.pc + 1, cyc := s.cyc + 1, bus := s.bus ++ [.read s.pc (s.mem.read s.pc)] }) := rfl

theorem push_eq (w : Byte) (s : State) :
    push w s = { s with sp := s.sp - 1, mem := s.mem.write (stackAddr s.sp) w, cyc := s.cyc + 1,
                        bus := s.bus ++ [.write (stackAddr s.sp) w] } := rfl

theorem pull_eq (s : State) :
    pull s = (s.mem.read (stackAddr (s.sp + 1)),
      { s with sp := s.sp + 1, cyc := s.cyc + 1,
               bus := s.bus ++ [.read (stackAddr (s.sp + 1)) (s.mem.read (stackAddr (s.sp + 1)))] }) := rfl

theorem pushWord_eq (w : Addr) (s : State) :
    pushWord w s = { s with
      sp := s.sp - 1 - 1
      mem := (s.mem.write (stackAddr s.sp) (hiByte w)).write (stackAddr (s.sp - 1)) (loByte w)
      cyc := s.cyc + 1 + 1
      bus := s.bus ++ [.write (stackAddr s.sp) (hiByte w)] ++ [.write (stackAddr (s.sp - 1)) (loByte w)] } := by
  simp only [pushWord, push_eq]

theorem pullWord_eq (s : State) :
    pullWord s =
      (word (s.mem.read (stackAddr (s.sp + 1 + 1))) (s.mem.read (stackAddr (s.sp + 1))),
        { s with
          sp := s.sp + 1 + 1
          cyc := s.cyc + 1 + 1
          bus := s.bus ++ [.read (stackAddr (s.sp + 1)) (s.mem.read (stackAddr (s.sp + 1)))] ++
            [.read (stackAddr (s.sp + 1 + 1)) (s.mem.read (stackAddr (s.sp + 1 + 1)))] }) := by
  simp only [pullWord, pull_eq]

/-- A load writes A, Z, N and the cycle count. -/
theorem loadA_eq (m : Mode) (k : Bool) (w : Byte) (s : State) :
    loadA m k (w, s) = { s with a := w, z := w == 0x00, n := bit7 w, cyc := s.cyc + Config.extraCycles .lda m k } := rfl

theorem loadX_eq (m : Mode) (k : Bool) (w : Byte) (s : State) :
    loadX m k (w, s) = { s with x := w, z := w == 0x00, n := bit7 w, cyc := s.cyc + Config.extraCycles .ldx m k } := rfl

theorem loadY_eq (m : Mode) (k : Bool) (w : Byte) (s : State) :
    loadY m k (w, s) = { s with y := w, z := w == 0x00, n := bit7 w, cyc := s.cyc + Config.extraCycles .ldy m k } := rfl

/-- ADC writes A, C, V, Z, N and the cycle count. -/
theorem addWithCarry_eq (m : Mode) (k : Bool) (w : Byte) (s : State) :
    addWithCarry m k (w, s) =
      { s with
        a := adcResult s.a w s.c
        c := adcCarry s.a w s.c
        v := adcOverflow s.a w s.c
        z := adcResult s.a w s.c == 0x00
        n := bit7 (adcResult s.a w s.c)
        cyc := s.cyc + Config.extraCycles .adc m k } := by
  simp only [addWithCarry, State.setC, State.setV, State.setA, State.setZN, extra]

/-- AND writes A, Z, N and the cycle count. -/
theorem bitwiseAnd_eq (m : Mode) (k : Bool) (w : Byte) (s : State) :
    bitwiseAnd m k (w, s) =
      { s with a := s.a &&& w, z := (s.a &&& w) == 0x00, n := bit7 (s.a &&& w), cyc := s.cyc + Config.extraCycles .and m k } := rfl

/-- ASL on memory writes the cell it read, C, Z, N and the cycle count. -/
theorem shiftMemory_eq (m : Mode) (k : Bool) (ea : Addr) (s : State) :
    shiftMemory m k ea s =
      { s with
        c := aslCarry (s.mem.read ea)
        z := aslResult (s.mem.read ea) == 0x00
        n := bit7 (aslResult (s.mem.read ea))
        mem := s.mem.write ea (aslResult (s.mem.read ea))
        cyc := s.cyc + 1 + 1 + Config.extraCycles .asl m k
        bus := s.bus ++ [.read ea (s.mem.read ea)] ++ [.write ea (aslResult (s.mem.read ea))] } := by
  simp only [shiftMemory, operandAt, memRead_eq, memWrite_eq, State.setC, State.setZN, extra]

end Sys2Proof.Machine
end

