-- ==== Sys2Proof/Laws/Fetch.lean ====
section
/-!
SUPPORT. The rows of the opcode table, and the fetch of one instruction against the decoder on the bytes at PC.
-/
namespace Sys2Proof

theorem mem_of_lookupOpcode {op : Byte} {rows : List (Byte × Format)} {f : Format} (h : lookupOpcode op rows = some f) :
    (op, f) ∈ rows := by
  induction rows with
  | nil => simp [lookupOpcode] at h
  | cons row rest ih =>
    simp only [lookupOpcode] at h
    split at h
    · rename_i e
      cases h
      cases e
      simp
    · exact List.mem_cons_of_mem _ (ih h)

/-- A row's form has the row's opcode byte, and as many operand bytes as its format. -/
def RowWf : Byte × Format → Prop
  | (op, .f1 form) => form.opcode = op ∧ form.operands = [] ∧ form.length = 1
  | (op, .f2 form) => ∀ d8, (form d8).opcode = op ∧ (form d8).operands = [d8] ∧ (form d8).length = 2
  | (op, .f3 form) =>
    ∀ lo8 hi8, (form lo8 hi8).opcode = op ∧ (form lo8 hi8).operands = [lo8, hi8] ∧ (form lo8 hi8).length = 3

theorem rowWf_of_mem : ∀ row ∈ opcodeTable, RowWf row := by
  simp [opcodeTable, loadRows, arithmeticRows, shiftAndControlRows, RowWf, Instr.opcode, Instr.operands, Instr.length,
    Instr.mode, Mode.operandBytes]

theorem rowWf_of_decodeOpcode {op : Byte} {f : Format} (h : decodeOpcode op = some f) : RowWf (op, f) :=
  rowWf_of_mem _ (mem_of_lookupOpcode h)

namespace Machine

@[simp] theorem State.instrByte_zero (s : State) : s.instrByte 0 = s.mem.read s.pc := by simp [State.instrByte]

/-- The fetch at the top of an iteration finds what the decoder reads from the bytes at PC, and leaves `afterFetch`; of an
unrecognized opcode it fetches the one byte. -/
theorem fetchInstr_eq (s : State) :
    fetchInstr s.beginIteration =
      match decode s.instrBytes with
      | .ok (i, _) => .recognized i (s.afterFetch i.length)
      | .error _ => .unrecognized (s.mem.read s.pc)
          { s with pc := s.pc + 1, cyc := s.cyc + 1, cancelIn := s.cancelIn.tail, bus := [s.readOf s.pc] } := by
  have h₂ : s.pc + 1#16 + 1#16 = s.pc + 2#16 := by rw [BitVec.add_assoc]; rfl
  have h₃ : s.pc + 2#16 + 1#16 = s.pc + 3#16 := by rw [BitVec.add_assoc]; rfl
  have e : (fetchByte s.beginIteration).1 = s.mem.read s.pc := rfl
  simp only [fetchInstr, decode, State.instrBytes, State.instrByte_zero]
  rw [e]
  cases hd : decodeOpcode (s.mem.read s.pc) with
  | none => simp [fetchByte_eq, State.readOf, State.beginIteration]
  | some f =>
    have g := rowWf_of_decodeOpcode hd
    cases f with
    | f1 form =>
      simp only [RowWf] at g
      simp [fetchByte_eq, State.afterFetch, g.2.2, List.range_succ, State.beginIteration]
    | f2 form =>
      simp only [RowWf] at g
      simp [fetchByte_eq, State.afterFetch, (g _).2.2, List.range_succ, State.beginIteration, State.instrByte, h₂]
    | f3 form =>
      simp only [RowWf] at g
      simp [fetchByte_eq, State.afterFetch, (g _ _).2.2, List.range_succ, State.beginIteration, State.instrByte, h₂, h₃]

end Machine
end Sys2Proof
end

