-- ==== Sys2Proof/Laws/PerInstr.lean ====
section
/-!
SUPPORT. Per-instruction laws: every form is a row of the opcode table.
-/
namespace Sys2Proof.Laws.OpcodeRow

/-- The form's (operation, mode) pair is one of spec/30_encoding.md R86, and its opcode byte selects a row of the format
with as many operand bytes as the form has. -/
def Statement (i : Instr) : Prop :=
  i.wellFormed = true ∧ i.operands.length = i.mode.operandBytes ∧ (decodeOpcode i.opcode).isSome = true

theorem ldaImm (d8 : Byte) : Statement (.ldaImm d8) := ⟨rfl, rfl, rfl⟩
theorem ldaZp (d8 : Byte) : Statement (.ldaZp d8) := ⟨rfl, rfl, rfl⟩
theorem ldaZpx (d8 : Byte) : Statement (.ldaZpx d8) := ⟨rfl, rfl, rfl⟩
theorem ldaAbs (lo8 hi8 : Byte) : Statement (.ldaAbs lo8 hi8) := ⟨rfl, rfl, rfl⟩
theorem ldaAbsx (lo8 hi8 : Byte) : Statement (.ldaAbsx lo8 hi8) := ⟨rfl, rfl, rfl⟩
theorem ldaAbsy (lo8 hi8 : Byte) : Statement (.ldaAbsy lo8 hi8) := ⟨rfl, rfl, rfl⟩
theorem ldxImm (d8 : Byte) : Statement (.ldxImm d8) := ⟨rfl, rfl, rfl⟩
theorem ldxZp (d8 : Byte) : Statement (.ldxZp d8) := ⟨rfl, rfl, rfl⟩
theorem ldxZpy (d8 : Byte) : Statement (.ldxZpy d8) := ⟨rfl, rfl, rfl⟩
theorem ldxAbs (lo8 hi8 : Byte) : Statement (.ldxAbs lo8 hi8) := ⟨rfl, rfl, rfl⟩
theorem ldxAbsy (lo8 hi8 : Byte) : Statement (.ldxAbsy lo8 hi8) := ⟨rfl, rfl, rfl⟩
theorem ldyImm (d8 : Byte) : Statement (.ldyImm d8) := ⟨rfl, rfl, rfl⟩
theorem ldyZp (d8 : Byte) : Statement (.ldyZp d8) := ⟨rfl, rfl, rfl⟩
theorem ldyZpx (d8 : Byte) : Statement (.ldyZpx d8) := ⟨rfl, rfl, rfl⟩
theorem ldyAbs (lo8 hi8 : Byte) : Statement (.ldyAbs lo8 hi8) := ⟨rfl, rfl, rfl⟩
theorem ldyAbsx (lo8 hi8 : Byte) : Statement (.ldyAbsx lo8 hi8) := ⟨rfl, rfl, rfl⟩
theorem adcImm (d8 : Byte) : Statement (.adcImm d8) := ⟨rfl, rfl, rfl⟩
theorem adcZp (d8 : Byte) : Statement (.adcZp d8) := ⟨rfl, rfl, rfl⟩
theorem adcZpx (d8 : Byte) : Statement (.adcZpx d8) := ⟨rfl, rfl, rfl⟩
theorem adcAbs (lo8 hi8 : Byte) : Statement (.adcAbs lo8 hi8) := ⟨rfl, rfl, rfl⟩
theorem adcAbsx (lo8 hi8 : Byte) : Statement (.adcAbsx lo8 hi8) := ⟨rfl, rfl, rfl⟩
theorem adcAbsy (lo8 hi8 : Byte) : Statement (.adcAbsy lo8 hi8) := ⟨rfl, rfl, rfl⟩
theorem andImm (d8 : Byte) : Statement (.andImm d8) := ⟨rfl, rfl, rfl⟩
theorem andZp (d8 : Byte) : Statement (.andZp d8) := ⟨rfl, rfl, rfl⟩
theorem andZpx (d8 : Byte) : Statement (.andZpx d8) := ⟨rfl, rfl, rfl⟩
theorem andAbs (lo8 hi8 : Byte) : Statement (.andAbs lo8 hi8) := ⟨rfl, rfl, rfl⟩
theorem andAbsx (lo8 hi8 : Byte) : Statement (.andAbsx lo8 hi8) := ⟨rfl, rfl, rfl⟩
theorem andAbsy (lo8 hi8 : Byte) : Statement (.andAbsy lo8 hi8) := ⟨rfl, rfl, rfl⟩
theorem aslAcc : Statement (.aslAcc) := ⟨rfl, rfl, rfl⟩
theorem aslZp (d8 : Byte) : Statement (.aslZp d8) := ⟨rfl, rfl, rfl⟩
theorem aslZpx (d8 : Byte) : Statement (.aslZpx d8) := ⟨rfl, rfl, rfl⟩
theorem aslAbs (lo8 hi8 : Byte) : Statement (.aslAbs lo8 hi8) := ⟨rfl, rfl, rfl⟩
theorem aslAbsx (lo8 hi8 : Byte) : Statement (.aslAbsx lo8 hi8) := ⟨rfl, rfl, rfl⟩
theorem jmpAbs (lo8 hi8 : Byte) : Statement (.jmpAbs lo8 hi8) := ⟨rfl, rfl, rfl⟩
theorem jsrAbs (lo8 hi8 : Byte) : Statement (.jsrAbs lo8 hi8) := ⟨rfl, rfl, rfl⟩
theorem rtsImp : Statement (.rtsImp) := ⟨rfl, rfl, rfl⟩

end Sys2Proof.Laws.OpcodeRow
end

