-- ==== Sys2Proof/Tests/Slice0.lean ====
section
/-!
SUPPORT. Tests of the model. Every expected result comes from spec/: the encodings of R86, the vectors of
spec/95_test_vectors.md, or a rule named at the test. The witnesses at the end meet the hypotheses of the statements.
-/
namespace Sys2Proof.Tests
open Sys2Proof Sys2Proof.Machine

/-! ## Helpers -/

/-- A state at the top of an iteration: cells of memory set, an instruction's bytes at `pc`. -/
def start (pc : Addr) (bytes : List Byte) (cells : List (Addr × Byte)) (s : State) : State :=
  { (cells.foldl (fun u cell => u.setCell cell.1 cell.2) s).setCells pc bytes with pc := pc, running := true }

/-- What a vector shows of the state after one step: PC, A, X, Y, SP, C, Z, V, N, the number of accesses, and every cell
written with what it then holds. -/
structure Seen where
  pc : Addr
  a : Byte
  x : Byte
  y : Byte
  sp : Byte
  c : Bool
  z : Bool
  v : Bool
  n : Bool
  accesses : Nat
  written : List (Addr × Byte)
  deriving DecidableEq

/-- One step, as a vector shows it. -/
def seen (s : State) : Option Seen :=
  match step s with
  | .next t => some ⟨t.pc, t.a, t.x, t.y, t.sp, t.c, t.z, t.v, t.n, t.bus.length,
      t.bus.filterMap (fun acc => match acc with
        | .write p _ => some (p, t.mem.read p)
        | .read _ _ => none)⟩
  | .fault _ => none
  | .refused _ => none

/-- The next state, where there is one. -/
def after (s : State) : State :=
  match step s with
  | .next t => t
  | .fault _ => s
  | .refused _ => s

/-! ## WellFormed: pairs that R86 does not have are refused -/

/-- spec/90_conflicts.md C8: the indexed modes that LDA, LDX and LDY do not have. -/
theorem test_refusedLoadModes :
    supported .lda .zpy = false ∧ supported .ldx .zpx = false ∧ supported .ldx .absx = false ∧
    supported .ldy .zpy = false ∧ supported .ldy .absy = false := by decide

/-- No other operation has a mode outside its rows: none of the nine has all modes, and no load, ADC or AND has ACC or IMP. -/
theorem test_refusedOtherModes :
    supported .adc .zpy = false ∧ supported .and .zpy = false ∧ supported .adc .acc = false ∧ supported .and .imp = false ∧
    supported .lda .acc = false ∧ supported .ldx .imp = false ∧ supported .ldy .acc = false ∧
    supported .asl .imm = false ∧ supported .asl .zpy = false ∧ supported .asl .absy = false ∧
    supported .jmp .imm = false ∧ supported .jmp .absx = false ∧ supported .jsr .zp = false ∧
    supported .rts .acc = false ∧ supported .rts .abs = false := by decide

/-- 36 pairs are supported (R86). -/
theorem test_supportedPairs :
    (([.lda, .ldx, .ldy, .adc, .and, .asl, .jmp, .jsr, .rts] : List Operation).flatMap Operation.modes).length = 36 := by decide

/-! ## Decode: every row of R86, and the bytes beside them -/

/-- Rows of R86: the opcode bytes of LDA, bit by bit. -/
theorem test_decodeLda :
    decode [0b10101001, 0x34] = .ok (.ldaImm 0x34, []) ∧
    decode [0b10100101, 0x34] = .ok (.ldaZp 0x34, []) ∧
    decode [0b10110101, 0x34] = .ok (.ldaZpx 0x34, []) ∧
    decode [0b10101101, 0x34, 0x12] = .ok (.ldaAbs 0x34 0x12, []) ∧
    decode [0b10111101, 0x34, 0x12] = .ok (.ldaAbsx 0x34 0x12, []) ∧
    decode [0b10111001, 0x34, 0x12] = .ok (.ldaAbsy 0x34 0x12, []) := by decide

/-- Rows of R86: the opcode bytes of LDX, bit by bit. -/
theorem test_decodeLdx :
    decode [0b10100010, 0x34] = .ok (.ldxImm 0x34, []) ∧
    decode [0b10100110, 0x34] = .ok (.ldxZp 0x34, []) ∧
    decode [0b10110110, 0x34] = .ok (.ldxZpy 0x34, []) ∧
    decode [0b10101110, 0x34, 0x12] = .ok (.ldxAbs 0x34 0x12, []) ∧
    decode [0b10111110, 0x34, 0x12] = .ok (.ldxAbsy 0x34 0x12, []) := by decide

/-- Rows of R86: the opcode bytes of LDY, bit by bit. -/
theorem test_decodeLdy :
    decode [0b10100000, 0x34] = .ok (.ldyImm 0x34, []) ∧
    decode [0b10100100, 0x34] = .ok (.ldyZp 0x34, []) ∧
    decode [0b10110100, 0x34] = .ok (.ldyZpx 0x34, []) ∧
    decode [0b10101100, 0x34, 0x12] = .ok (.ldyAbs 0x34 0x12, []) ∧
    decode [0b10111100, 0x34, 0x12] = .ok (.ldyAbsx 0x34 0x12, []) := by decide

/-- Rows of R86: the opcode bytes of ADC, bit by bit. -/
theorem test_decodeAdc :
    decode [0b01101001, 0x34] = .ok (.adcImm 0x34, []) ∧
    decode [0b01100101, 0x34] = .ok (.adcZp 0x34, []) ∧
    decode [0b01110101, 0x34] = .ok (.adcZpx 0x34, []) ∧
    decode [0b01101101, 0x34, 0x12] = .ok (.adcAbs 0x34 0x12, []) ∧
    decode [0b01111101, 0x34, 0x12] = .ok (.adcAbsx 0x34 0x12, []) ∧
    decode [0b01111001, 0x34, 0x12] = .ok (.adcAbsy 0x34 0x12, []) := by decide

/-- Rows of R86: the opcode bytes of AND, bit by bit. -/
theorem test_decodeAnd :
    decode [0b00101001, 0x34] = .ok (.andImm 0x34, []) ∧
    decode [0b00100101, 0x34] = .ok (.andZp 0x34, []) ∧
    decode [0b00110101, 0x34] = .ok (.andZpx 0x34, []) ∧
    decode [0b00101101, 0x34, 0x12] = .ok (.andAbs 0x34 0x12, []) ∧
    decode [0b00111101, 0x34, 0x12] = .ok (.andAbsx 0x34 0x12, []) ∧
    decode [0b00111001, 0x34, 0x12] = .ok (.andAbsy 0x34 0x12, []) := by decide

/-- Rows of R86: the opcode bytes of ASL, bit by bit. -/
theorem test_decodeAsl :
    decode [0b00001010] = .ok (.aslAcc, []) ∧
    decode [0b00000110, 0x34] = .ok (.aslZp 0x34, []) ∧
    decode [0b00010110, 0x34] = .ok (.aslZpx 0x34, []) ∧
    decode [0b00001110, 0x34, 0x12] = .ok (.aslAbs 0x34 0x12, []) ∧
    decode [0b00011110, 0x34, 0x12] = .ok (.aslAbsx 0x34 0x12, []) := by decide

/-- Rows of R86: the opcode bytes of JMP, bit by bit. -/
theorem test_decodeJmp :
    decode [0b01001100, 0x34, 0x12] = .ok (.jmpAbs 0x34 0x12, []) := by decide

/-- Rows of R86: the opcode bytes of JSR, bit by bit. -/
theorem test_decodeJsr :
    decode [0b00100000, 0x34, 0x12] = .ok (.jsrAbs 0x34 0x12, []) := by decide

/-- Rows of R86: the opcode bytes of RTS, bit by bit. -/
theorem test_decodeRts :
    decode [0b01100000] = .ok (.rtsImp, []) := by decide

/-- H1 to H4: 0x02, 0x00, 0xEA and 0xFF are no instructions; and a list that stops early is none. -/
theorem test_decodeRefuses :
    decode [0x02, 0x00] = .error (.unrecognizedOpcode 0x02) ∧ decode [0x00] = .error (.unrecognizedOpcode 0x00) ∧
    decode [0xEA] = .error (.unrecognizedOpcode 0xEA) ∧ decode [0xFF] = .error (.unrecognizedOpcode 0xFF) ∧
    decode [0xAD, 0x34] = .error .truncated := by decide

/-- R203: no byte beyond the instruction's last is consumed. -/
theorem test_decodeLeavesTheRest : decode [0x60, 0xA9, 0x01] = .ok (.rtsImp, [0xA9, 0x01]) := by decide

/-- The numbering of the opcode table: the first byte is the low byte of the number; bits from `nbits` up are 0. -/
theorem test_decodeTableWord :
    decodeTableWord 24 0x1234AD = some (.ldaAbs 0x34 0x12) ∧ decodeTableWord 8 0x12A9 = some (.ldaImm 0x00) ∧
    decodeTableWord 8 0x02 = none := by decide

/-- A word placed at the next fetch is what the next step runs, from reset: here `LDA #$80`. -/
theorem test_withFetchWord :
    seen (State.reset.withFetchWord 16 0x80A9) = some ⟨0xFFFE, 0x80, 0x00, 0x00, 0xFF, false, false, false, true, 2, []⟩ := by decide

/-! ## One step of each form: the vectors of the spec -/

/-- Vectors V2, V24 of spec/95_test_vectors.md. -/
theorem test_execLdaImm :
    seen (start 0x0200 [0xA9, 0x80] []
      { State.reset with c := true, v := true }) =
      some ⟨0x0202, 0x80, 0x00, 0x00, 0xFF, true, false, true, true, 2, []⟩ ∧
    seen (start 0xFFFF [0xA9, 0x42] []
      State.reset) =
      some ⟨0x0001, 0x42, 0x00, 0x00, 0xFF, false, false, false, false, 2, []⟩ := by decide

/-- Vector V10 of spec/95_test_vectors.md. -/
theorem test_execLdaZp :
    seen (start 0x0200 [0xA5, 0x10] [(0x0010, 0x37)]
      State.reset) =
      some ⟨0x0202, 0x37, 0x00, 0x00, 0xFF, false, false, false, false, 3, []⟩ := by decide

/-- Vector V11 of spec/95_test_vectors.md. -/
theorem test_execLdaZpx :
    seen (start 0x0200 [0xB5, 0xFF] [(0x0001, 0x82), (0x0101, 0x55)]
      { State.reset with x := 0x02 }) =
      some ⟨0x0202, 0x82, 0x02, 0x00, 0xFF, false, false, false, true, 3, []⟩ := by decide

/-- Vectors V14, V25 of spec/95_test_vectors.md. -/
theorem test_execLdaAbs :
    seen (start 0x0200 [0xAD, 0x34, 0x12] [(0x1234, 0x00)]
      { State.reset with n := true }) =
      some ⟨0x0203, 0x00, 0x00, 0x00, 0xFF, false, true, false, false, 4, []⟩ ∧
    seen (start 0xFFFE [0xAD, 0x10, 0x00] [(0x0010, 0x99)]
      State.reset) =
      some ⟨0x0001, 0x99, 0x00, 0x00, 0xFF, false, false, false, true, 4, []⟩ := by decide

/-- Vectors V15, V16 of spec/95_test_vectors.md. -/
theorem test_execLdaAbsx :
    seen (start 0x0200 [0xBD, 0xFF, 0x00] [(0x0101, 0x7F), (0x0001, 0x55)]
      { State.reset with x := 0x02 }) =
      some ⟨0x0203, 0x7F, 0x02, 0x00, 0xFF, false, false, false, false, 4, []⟩ ∧
    seen (start 0x0200 [0xBD, 0xFF, 0xFF] [(0x0002, 0xC0)]
      { State.reset with x := 0x03 }) =
      some ⟨0x0203, 0xC0, 0x03, 0x00, 0xFF, false, false, false, true, 4, []⟩ := by decide

/-- Vector V17 of spec/95_test_vectors.md. -/
theorem test_execLdaAbsy :
    seen (start 0x0200 [0xB9, 0x80, 0xFF] [(0x007F, 0x01)]
      { State.reset with y := 0xFF }) =
      some ⟨0x0203, 0x01, 0x00, 0xFF, 0xFF, false, false, false, false, 4, []⟩ := by decide

/-- Vector V5 of spec/95_test_vectors.md. -/
theorem test_execLdxImm :
    seen (start 0x0200 [0xA2, 0x80] []
      { State.reset with c := true, v := true }) =
      some ⟨0x0202, 0x00, 0x80, 0x00, 0xFF, true, false, true, true, 2, []⟩ := by decide

/-- Vector V22 of spec/95_test_vectors.md. -/
theorem test_execLdxZp :
    seen (start 0x0200 [0xA6, 0x20] [(0x0020, 0x80)]
      State.reset) =
      some ⟨0x0202, 0x00, 0x80, 0x00, 0xFF, false, false, false, true, 3, []⟩ := by decide

/-- Vector V12 of spec/95_test_vectors.md. -/
theorem test_execLdxZpy :
    seen (start 0x0200 [0xB6, 0x80] [(0x007F, 0x00), (0x017F, 0x55)]
      { State.reset with y := 0xFF }) =
      some ⟨0x0202, 0x00, 0x00, 0xFF, 0xFF, false, true, false, false, 3, []⟩ := by decide

/-- Vector V20 of spec/95_test_vectors.md. -/
theorem test_execLdxAbs :
    seen (start 0x0200 [0xAE, 0x00, 0x30] [(0x3000, 0xFF)]
      State.reset) =
      some ⟨0x0203, 0x00, 0xFF, 0x00, 0xFF, false, false, false, true, 4, []⟩ := by decide

/-- Vector V18 of spec/95_test_vectors.md. -/
theorem test_execLdxAbsy :
    seen (start 0x0200 [0xBE, 0xF0, 0x10] [(0x1110, 0x44)]
      { State.reset with y := 0x20 }) =
      some ⟨0x0203, 0x00, 0x44, 0x20, 0xFF, false, false, false, false, 4, []⟩ := by decide

/-- Vector V8 of spec/95_test_vectors.md. -/
theorem test_execLdyImm :
    seen (start 0x0200 [0xA0, 0x80] []
      { State.reset with c := true, v := true }) =
      some ⟨0x0202, 0x00, 0x00, 0x80, 0xFF, true, false, true, true, 2, []⟩ := by decide

/-- Vector V23 of spec/95_test_vectors.md. -/
theorem test_execLdyZp :
    seen (start 0x0200 [0xA4, 0xFF] [(0x00FF, 0x90)]
      State.reset) =
      some ⟨0x0202, 0x00, 0x00, 0x90, 0xFF, false, false, false, true, 3, []⟩ := by decide

/-- Vector V13 of spec/95_test_vectors.md. -/
theorem test_execLdyZpx :
    seen (start 0x0200 [0xB4, 0xF0] [(0x0010, 0x90)]
      { State.reset with x := 0x20 }) =
      some ⟨0x0202, 0x00, 0x20, 0x90, 0xFF, false, false, false, true, 3, []⟩ := by decide

/-- Vector V21 of spec/95_test_vectors.md. -/
theorem test_execLdyAbs :
    seen (start 0x0200 [0xAC, 0x03, 0x05] [(0x0503, 0x7F)]
      State.reset) =
      some ⟨0x0203, 0x00, 0x00, 0x7F, 0xFF, false, false, false, false, 4, []⟩ := by decide

/-- Vector V19 of spec/95_test_vectors.md. -/
theorem test_execLdyAbsx :
    seen (start 0x0200 [0xBC, 0x00, 0x40] [(0x40FF, 0x00)]
      { State.reset with x := 0xFF }) =
      some ⟨0x0203, 0x00, 0xFF, 0x00, 0xFF, false, true, false, false, 4, []⟩ := by decide

/-- Vectors V26, V27, V30, V31, V36 of spec/95_test_vectors.md. -/
theorem test_execAdcImm :
    seen (start 0x0200 [0x69, 0x50] []
      { State.reset with a := 0x50 }) =
      some ⟨0x0202, 0xA0, 0x00, 0x00, 0xFF, false, false, true, true, 2, []⟩ ∧
    seen (start 0x0200 [0x69, 0x01] []
      { State.reset with a := 0xFF }) =
      some ⟨0x0202, 0x00, 0x00, 0x00, 0xFF, true, true, false, false, 2, []⟩ ∧
    seen (start 0x0200 [0x69, 0x00] []
      { State.reset with a := 0x7F, c := true }) =
      some ⟨0x0202, 0x80, 0x00, 0x00, 0xFF, false, false, true, true, 2, []⟩ ∧
    seen (start 0x0200 [0x69, 0xFF] []
      { State.reset with a := 0x80 }) =
      some ⟨0x0202, 0x7F, 0x00, 0x00, 0xFF, true, false, true, false, 2, []⟩ ∧
    seen (start 0x0200 [0x69, 0x01] []
      { State.reset with a := 0x01, v := true, c := true }) =
      some ⟨0x0202, 0x03, 0x00, 0x00, 0xFF, false, false, false, false, 2, []⟩ := by decide

/-- Vector V37 of spec/95_test_vectors.md. -/
theorem test_execAdcZp :
    seen (start 0x0200 [0x65, 0x10] [(0x0010, 0x01)]
      { State.reset with a := 0x01 }) =
      some ⟨0x0202, 0x02, 0x00, 0x00, 0xFF, false, false, false, false, 3, []⟩ := by decide

/-- Vectors V38, V39 of spec/95_test_vectors.md. -/
theorem test_execAdcZpx :
    seen (start 0x0200 [0x75, 0x20] [(0x0024, 0x80)]
      { State.reset with a := 0x80, x := 0x04 }) =
      some ⟨0x0202, 0x00, 0x04, 0x00, 0xFF, true, true, true, false, 3, []⟩ ∧
    seen (start 0x0200 [0x75, 0xFF] [(0x0001, 0x01), (0x0101, 0x70)]
      { State.reset with a := 0x01, x := 0x02 }) =
      some ⟨0x0202, 0x02, 0x02, 0x00, 0xFF, false, false, false, false, 3, []⟩ := by decide

/-- Vector V40 of spec/95_test_vectors.md. -/
theorem test_execAdcAbs :
    seen (start 0x0200 [0x6D, 0x00, 0x30] [(0x3000, 0x20)]
      { State.reset with a := 0x10, c := true }) =
      some ⟨0x0203, 0x31, 0x00, 0x00, 0xFF, false, false, false, false, 4, []⟩ := by decide

/-- Vector V41 of spec/95_test_vectors.md. -/
theorem test_execAdcAbsx :
    seen (start 0x0200 [0x7D, 0xFF, 0x20] [(0x2100, 0xFF)]
      { State.reset with a := 0xFF, c := true, x := 0x01 }) =
      some ⟨0x0203, 0xFF, 0x01, 0x00, 0xFF, true, false, false, true, 4, []⟩ := by decide

/-- Vector V42 of spec/95_test_vectors.md. -/
theorem test_execAdcAbsy :
    seen (start 0x0200 [0x79, 0xFF, 0x04] [(0x0500, 0x01)]
      { State.reset with a := 0x7F, y := 0x01 }) =
      some ⟨0x0203, 0x80, 0x00, 0x01, 0xFF, false, false, true, true, 4, []⟩ := by decide

/-- Vectors V43, V46 of spec/95_test_vectors.md. -/
theorem test_execAndImm :
    seen (start 0x0200 [0x29, 0xF0] []
      { State.reset with a := 0xA0, c := true, v := true }) =
      some ⟨0x0202, 0xA0, 0x00, 0x00, 0xFF, true, false, true, true, 2, []⟩ ∧
    seen (start 0x0200 [0x29, 0x7F] []
      { State.reset with a := 0xFF, n := true }) =
      some ⟨0x0202, 0x7F, 0x00, 0x00, 0xFF, false, false, false, false, 2, []⟩ := by decide

/-- Vector V47 of spec/95_test_vectors.md. -/
theorem test_execAndZp :
    seen (start 0x0200 [0x25, 0x02] [(0x0002, 0xC0)]
      { State.reset with a := 0xFF }) =
      some ⟨0x0202, 0xC0, 0x00, 0x00, 0xFF, false, false, false, true, 3, []⟩ := by decide

/-- Vector V48 of spec/95_test_vectors.md. -/
theorem test_execAndZpx :
    seen (start 0x0200 [0x35, 0x10] [(0x0011, 0xF0)]
      { State.reset with a := 0x0F, x := 0x01 }) =
      some ⟨0x0202, 0x00, 0x01, 0x00, 0xFF, false, true, false, false, 3, []⟩ := by decide

/-- Vector V49 of spec/95_test_vectors.md. -/
theorem test_execAndAbs :
    seen (start 0x0200 [0x2D, 0x00, 0x40] [(0x4000, 0x80)]
      { State.reset with a := 0x81 }) =
      some ⟨0x0203, 0x80, 0x00, 0x00, 0xFF, false, false, false, true, 4, []⟩ := by decide

/-- Vector V50 of spec/95_test_vectors.md. -/
theorem test_execAndAbsx :
    seen (start 0x0200 [0x3D, 0xFF, 0xFF] [(0x0002, 0xC0)]
      { State.reset with a := 0x80, x := 0x03 }) =
      some ⟨0x0203, 0x80, 0x03, 0x00, 0xFF, false, false, false, true, 4, []⟩ := by decide

/-- Vector V51 of spec/95_test_vectors.md. -/
theorem test_execAndAbsy :
    seen (start 0x0200 [0x39, 0x00, 0x20] [(0x2010, 0xAA)]
      { State.reset with a := 0x55, y := 0x10 }) =
      some ⟨0x0203, 0x00, 0x00, 0x10, 0xFF, false, true, false, false, 4, []⟩ := by decide

/-- Vectors V53, V55, V56 of spec/95_test_vectors.md. -/
theorem test_execAslAcc :
    seen (start 0x0200 [0x0A] []
      { State.reset with a := 0x80, c := false, v := true }) =
      some ⟨0x0201, 0x00, 0x00, 0x00, 0xFF, true, true, true, false, 1, []⟩ ∧
    seen (start 0x0200 [0x0A] []
      { State.reset with a := 0xFF, c := false, v := true }) =
      some ⟨0x0201, 0xFE, 0x00, 0x00, 0xFF, true, false, true, true, 1, []⟩ ∧
    seen (start 0x0200 [0x0A] []
      { State.reset with a := 0x01, c := true, v := true }) =
      some ⟨0x0201, 0x02, 0x00, 0x00, 0xFF, false, false, true, false, 1, []⟩ := by decide

/-- Vector V58 of spec/95_test_vectors.md. -/
theorem test_execAslZp :
    seen (start 0x0200 [0x06, 0x10] [(0x0010, 0x81)]
      { State.reset with a := 0x33 }) =
      some ⟨0x0202, 0x33, 0x00, 0x00, 0xFF, true, false, false, false, 4, [(0x0010, 0x02)]⟩ := by decide

/-- Vector V59 of spec/95_test_vectors.md. -/
theorem test_execAslZpx :
    seen (start 0x0200 [0x16, 0xFF] [(0x0001, 0xC1), (0x0101, 0x55)]
      { State.reset with x := 0x02 }) =
      some ⟨0x0202, 0x00, 0x02, 0x00, 0xFF, true, false, false, true, 4, [(0x0001, 0x82)]⟩ := by decide

/-- Vectors V60, V63 of spec/95_test_vectors.md. -/
theorem test_execAslAbs :
    seen (start 0x0200 [0x0E, 0x00, 0x30] [(0x3000, 0x40)]
      State.reset) =
      some ⟨0x0203, 0x00, 0x00, 0x00, 0xFF, false, false, false, true, 5, [(0x3000, 0x80)]⟩ ∧
    seen (start 0x0200 [0x0E, 0x03, 0x02] [(0x0203, 0x30)]
      State.reset) =
      some ⟨0x0203, 0x00, 0x00, 0x00, 0xFF, false, false, false, false, 5, [(0x0203, 0x60)]⟩ := by decide

/-- Vectors V61, V62 of spec/95_test_vectors.md. -/
theorem test_execAslAbsx :
    seen (start 0x0200 [0x1E, 0xFF, 0x00] [(0x0101, 0x40), (0x0001, 0x55)]
      { State.reset with x := 0x02 }) =
      some ⟨0x0203, 0x00, 0x02, 0x00, 0xFF, false, false, false, true, 5, [(0x0101, 0x80)]⟩ ∧
    seen (start 0x0200 [0x1E, 0xFF, 0xFF] [(0x0000, 0x80)]
      { State.reset with x := 0x01 }) =
      some ⟨0x0203, 0x00, 0x01, 0x00, 0xFF, true, true, false, false, 5, [(0x0000, 0x00)]⟩ := by decide

/-- Vectors V64, V66 of spec/95_test_vectors.md. -/
theorem test_execJmpAbs :
    seen (start 0x040D [0x4C, 0x20, 0x04] []
      { State.reset with c := true, n := true }) =
      some ⟨0x0420, 0x00, 0x00, 0x00, 0xFF, true, false, false, true, 3, []⟩ ∧
    seen (start 0xFFFE [0x4C, 0x34] [(0x0000, 0x12)]
      State.reset) =
      some ⟨0x1234, 0x00, 0x00, 0x00, 0xFF, false, false, false, false, 3, []⟩ := by decide

/-- Vectors V67, V68, V70 of spec/95_test_vectors.md. -/
theorem test_execJsrAbs :
    seen (start 0x0302 [0x20, 0x10, 0x03] []
      State.reset) =
      some ⟨0x0310, 0x00, 0x00, 0x00, 0xFD, false, false, false, false, 5, [(0x01FF, 0x03), (0x01FE, 0x04)]⟩ ∧
    seen (start 0x0302 [0x20, 0x10, 0x03] []
      { State.reset with sp := 0x00 }) =
      some ⟨0x0310, 0x00, 0x00, 0x00, 0xFE, false, false, false, false, 5, [(0x0100, 0x03), (0x01FF, 0x04)]⟩ ∧
    seen (start 0xFFFD [0x20, 0x00, 0x80] []
      State.reset) =
      some ⟨0x8000, 0x00, 0x00, 0x00, 0xFD, false, false, false, false, 5, [(0x01FF, 0xFF), (0x01FE, 0xFF)]⟩ := by decide

/-- Vectors V71, V72, V73 of spec/95_test_vectors.md. -/
theorem test_execRtsImp :
    seen (start 0x0315 [0x60] [(0x01FE, 0x04), (0x01FF, 0x03)]
      { State.reset with sp := 0xFD }) =
      some ⟨0x0305, 0x00, 0x00, 0x00, 0xFF, false, false, false, false, 3, []⟩ ∧
    seen (start 0x0600 [0x60] [(0x0100, 0x33), (0x0101, 0x12)]
      { State.reset with sp := 0xFF }) =
      some ⟨0x1234, 0x00, 0x00, 0x00, 0x01, false, false, false, false, 3, []⟩ ∧
    seen (start 0x0600 [0x60] [(0x01FF, 0xFF), (0x0100, 0xFF)]
      { State.reset with sp := 0xFE }) =
      some ⟨0x0000, 0x00, 0x00, 0x00, 0x00, false, false, false, false, 3, []⟩ := by decide

/-- Section 2.6 of spec/95_test_vectors.md: both operand bytes of JSR are fetched before the pushes overwrite them. -/
theorem test_jsrInTheStackPage :
    seen (start 0x01FD [0x20, 0x00, 0x03] [] State.reset) =
      some ⟨0x0300, 0x00, 0x00, 0x00, 0xFD, false, false, false, false, 5, [(0x01FF, 0x01), (0x01FE, 0xFF)]⟩ := by decide

/-! ## Primitives, the engine and the host -/

/-- M4, M6, M8: the word read, the push and the pull at the wrap. -/
theorem test_primitivesWrap :
    (memReadWord 0xFFFF ((State.reset.setCell 0xFFFF 0xCD).setCell 0x0000 0xAB)).1 = 0xABCD ∧
    (push 0x5A { State.reset with sp := 0x00 }).sp = 0xFF ∧
    (push 0x5A { State.reset with sp := 0x00 }).mem.read 0x0100 = 0x5A ∧
    (pull (State.reset.setCell 0x0100 0x99)).1 = 0x99 ∧ (pull (State.reset.setCell 0x0100 0x99)).2.sp = 0x00 := by decide

/-- M12: `SetZN` of 0x00, 0x80, 0x7F and 0xFF. -/
theorem test_setZn :
    ([0x00, 0x80, 0x7F, 0xFF] : List Byte).map (fun w => ((State.reset.setZN w).z, (State.reset.setZN w).n)) =
      [(true, false), (false, true), (false, false), (false, true)] := by decide

/-- H4: an unrecognized opcode at 0xFFFF halts with PC = 0x0000 and changes nothing else. -/
theorem test_haltAtTheTopOfMemory :
    let s := start 0xFFFF [0xFF] [] { State.reset with a := 0x11, n := true }
    step s = .next { s with pc := 0x0000, cyc := 1, bus := [.read 0xFFFF 0xFF], halted := true, haltOpcode := 0xFF, running := false } ∧
    runResult s (after s) = some (.halt 0xFF 1) := ⟨rfl, by decide⟩

/-- H5: a run started with `cancel` = 1 ends `Cancelled` with nothing fetched. -/
theorem test_cancelledAtOnce :
    let s := { State.reset with hostOps := [.run], cancelIn := [true] }
    (after (after s)).running = false ∧ (after (after s)).pc = 0xFFFC ∧ (after (after s)).bus = [] ∧
    runResult (after s) (after (after s)) = some (.cancelled 0) := by decide

/-- H9 and H10: reset puts the seed back; a seed that the loader replaces by 0x07 halts. -/
theorem test_resetAndSeed :
    after { State.reset with a := 0x55, mem := [(0xFFFC, 0x07)], hostOps := [.reset] } = State.reset ∧
    (after (start 0xFFFC [0x07] [] State.reset)).haltOpcode = 0x07 := by decide

/-- The canonical form: writing what an unlisted address reads as removes the entry; entries rise. -/
theorem test_memoryForm :
    Memory.write (Memory.write [] 0x0005 0x07) 0x0005 0x00 = [] ∧ Memory.write [] 0xFFFC 0x4C = [] ∧
    Memory.write (Memory.write [] 0x0009 0x01) 0x0005 0x02 = [(5, 0x02), (9, 0x01)] ∧
    Memory.wf [(9, 0x01), (5, 0x02)] = false ∧ Memory.wf [(5, 0x00)] = false ∧ Memory.wf [(65536, 0x01)] = false := by decide

/-! ## Witnesses: each meets all hypotheses of the statement it is named after -/

theorem witness_DecodeOfEncodeIsIdentity : (Instr.ldaAbs 0xFF 0xFF).wellFormed = true := by decide

theorem witness_EncodeOfDecodeIsIdentity : decode [0x1E, 0xFF, 0x00, 0x02] = .ok (.aslAbsx 0xFF 0x00, [0x02]) := by decide

theorem witness_OtherBytesAreUnrecognized : (decodeOpcode 0x00).isNone = true ∧ (decodeOpcode 0xFF).isNone = true := by decide

theorem witness_OpcodeByteDecidesTheLength :
    (Instr.ldaImm 0x00).opcode = (Instr.ldaImm 0xFF).opcode ∧ Instr.rtsImp.length = 1 ∧ (Instr.ldaImm 0x00).length = 2 ∧
    (Instr.jmpAbs 0x00 0x00).length = 3 := by decide

theorem witness_MemWriteChangesOneCell : (0x0000 : Addr) ≠ 0xFFFF := by decide

theorem witness_CanonicalMemoriesThatReadAlikeAreEqual :
    Memory.wf [(0, 0x01), (65535, 0x02)] = true ∧
    ∀ p : Addr, Memory.read [(0, 0x01), (65535, 0x02)] p = Memory.read [(0, 0x01), (65535, 0x02)] p := ⟨by decide, fun _ => rfl⟩

theorem witness_PullWordUndoesPushWord :
    let s := { State.reset with sp := 0x00 }
    (0x0101 : Addr) ≠ addrOf (0x0100 + s.sp.toNat) ∧ (0x0101 : Addr) ≠ addrOf (0x0100 + (s.sp.toNat + 255) % 256) := by decide

theorem witness_StackKeeps128ReturnAddresses :
    (List.replicate 128 (0x1234 : Addr)).length ≤ 128 ∧ (List.replicate 128 (0x1234 : Addr)).length = 128 ∧
    127 < (List.replicate 128 (0x1234 : Addr)).length := by simp

/-- The values 0x00 and 0x80, and a form for each clause: a new A, X and Y, the cell of ASL at the wrap, and RTS. -/
theorem witness_SetZnIsTheAuthorityForZAndN :
    (State.reset.setZN 0x00).z = true ∧ (State.reset.setZN 0x80).n = true ∧
    (∃ t, exec (.ldaImm 0x80) State.reset = .next t) ∧ (Instr.ldaImm 0x80).writesA = true ∧
    (Instr.ldaImm 0x80).writesZN = true ∧
    (∃ t, exec (.ldxImm 0x00) State.reset = .next t) ∧ (Instr.ldxImm 0x00).writesX = true ∧
    (∃ t, exec (.ldyImm 0x7F) State.reset = .next t) ∧ (Instr.ldyImm 0x7F).writesY = true ∧
    (∃ t, exec (.aslAbsx 0xFF 0xFF) { State.reset with x := 0x01 } = .next t) ∧
    (Instr.aslAbsx 0xFF 0xFF).stores { State.reset with x := 0x01 } = [0x0000] ∧
    (∃ t, exec .rtsImp State.reset = .next t) ∧ Instr.rtsImp.writesZN = false :=
  ⟨by decide, by decide, ⟨_, rfl⟩, by decide, by decide, ⟨_, rfl⟩, by decide, ⟨_, rfl⟩, by decide, ⟨_, rfl⟩, by decide,
    ⟨_, rfl⟩, by decide⟩

/-- No overflow at the largest signed sum, overflow one past it and one below the smallest. -/
theorem witness_AdcFlagsReadTheSums :
    adcOverflow 0x7E 0x01 false = false ∧ adcOverflow 0x7E 0x01 true = true ∧ adcOverflow 0x80 0x00 false = false ∧
    adcOverflow 0x80 0xFF false = true ∧ adcCarry 0xFF 0x00 false = false ∧ adcCarry 0xFF 0x00 true = true := by decide

theorem witness_LoadsLeaveTheRestUnchanged :
    (Instr.ldaAbsx 0xFF 0xFF).operation = .lda ∧ (∃ t, exec (.ldaAbsx 0xFF 0xFF) State.reset = .next t) ∧
    (Instr.ldxZpy 0xFF).operation = .ldx ∧ (∃ t, exec (.ldxZpy 0xFF) State.reset = .next t) ∧
    (Instr.ldyImm 0x00).operation = .ldy ∧ (∃ t, exec (.ldyImm 0x00) State.reset = .next t) :=
  ⟨rfl, ⟨_, rfl⟩, rfl, ⟨_, rfl⟩, rfl, ⟨_, rfl⟩⟩

theorem witness_AccumulatorFormsLeaveTheRestUnchanged :
    (Instr.adcImm 0xFF).operation = .adc ∧ (∃ t, exec (.adcImm 0xFF) State.reset = .next t) ∧
    (Instr.andZp 0x00).operation = .and ∧ (∃ t, exec (.andZp 0x00) State.reset = .next t) ∧
    (∃ t, exec .aslAcc State.reset = .next t) :=
  ⟨rfl, ⟨_, rfl⟩, rfl, ⟨_, rfl⟩, ⟨_, rfl⟩⟩

/-- At the wrap: `ASL $FFFF,X` with X = 1 stores to 0x0000. -/
theorem witness_AslOnMemoryLeavesTheRestUnchanged :
    (Instr.aslAbsx 0xFF 0xFF).operation = .asl ∧ (Instr.aslAbsx 0xFF 0xFF).mode ≠ .acc ∧
    (∃ t, exec (.aslAbsx 0xFF 0xFF) { State.reset with x := 0x01 } = .next t) ∧
    (Instr.aslAbsx 0xFF 0xFF).stores { State.reset with x := 0x01 } = [0x0000] :=
  ⟨rfl, by decide, ⟨_, rfl⟩, by decide⟩

theorem witness_ControlTransfersLeaveTheRestUnchanged :
    (Instr.jmpAbs 0x00 0x00).writesPc = true ∧ (∃ t, exec (.jmpAbs 0x00 0x00) State.reset = .next t) ∧
    (Instr.jsrAbs 0xFF 0xFF).writesPc = true ∧ (∃ t, exec (.jsrAbs 0xFF 0xFF) State.reset = .next t) ∧
    (0x01FD : Addr) ≠ stackAddr State.reset.sp ∧ (0x01FD : Addr) ≠ stackAddr (State.reset.sp - 1) ∧
    Instr.rtsImp.writesPc = true ∧ (∃ t, exec .rtsImp State.reset = .next t) :=
  ⟨by decide, ⟨_, rfl⟩, by decide, ⟨_, rfl⟩, by decide, by decide, by decide, ⟨_, rfl⟩⟩

theorem witness_RegistersHaveOnlyTheirWriters :
    (∃ t, exec (.jmpAbs 0x34 0x12) State.reset = .next t) ∧ (Instr.jmpAbs 0x34 0x12).writesA = false ∧
    (Instr.jmpAbs 0x34 0x12).writesX = false ∧ (Instr.jmpAbs 0x34 0x12).writesY = false ∧
    (Instr.jmpAbs 0x34 0x12).writesSp = false :=
  ⟨⟨_, rfl⟩, by decide, by decide, by decide, by decide⟩

theorem witness_FlagsHaveOnlyTheirWriters :
    (∃ t, exec (.ldaImm 0x80) State.reset = .next t) ∧ (Instr.ldaImm 0x80).writesC = false ∧
    (Instr.ldaImm 0x80).writesV = false ∧
    (∃ t, exec .rtsImp State.reset = .next t) ∧ Instr.rtsImp.writesZN = false :=
  ⟨⟨_, rfl⟩, by decide, by decide, ⟨_, rfl⟩, by decide⟩

theorem witness_OnlyAslAndJsrWriteMemory :
    (∃ t, exec (.jsrAbs 0x34 0x12) State.reset = .next t) ∧ (0x0200 : Addr) ∉ (Instr.jsrAbs 0x34 0x12).stores State.reset ∧
    (∃ t, exec (.ldaImm 0x00) State.reset = .next t) ∧ (0x0000 : Addr) ∉ (Instr.ldaImm 0x00).stores State.reset :=
  ⟨⟨_, rfl⟩, by decide, ⟨_, rfl⟩, by decide⟩

/-- The two addresses beside the stack page, with SP at the wrap. -/
theorem witness_JsrStoresOnlyInTheStackPage :
    (∃ t, exec (.jsrAbs 0x34 0x12) { State.reset with sp := 0x00 } = .next t) ∧
    (0x00FF : Addr).toNat < 0x0100 ∧ 0x01FF < (0x0200 : Addr).toNat :=
  ⟨⟨_, rfl⟩, by decide, by decide⟩

/-- An instruction whose bytes straddle the top of memory (vector V24). -/
theorem witness_StepRunsTheDecodedInstruction :
    let s := start 0xFFFF [0xA9, 0x42] [] State.reset
    s.Iterating ∧ decode s.instrBytes = .ok (.ldaImm 0x42, [0x00]) ∧ (Instr.ldaImm 0x42).wellFormed = true := by decide

theorem witness_PcAdvancesByTheLength :
    let s := start 0xFFFE [0xAD, 0x10, 0x00] [] State.reset
    s.Iterating ∧ decode s.instrBytes = .ok (.ldaAbs 0x10 0x00, []) ∧ (Instr.ldaAbs 0x10 0x00).writesPc = false := by decide

/-- One form of each load, at the top of memory. -/
theorem witness_LoadsMeetTheirContract :
    let sa := start 0xFFFE [0xBD, 0xFF, 0xFF] [] { State.reset with x := 0x01 }
    let sx := start 0xFFFF [0xB6, 0xFF] [] { State.reset with y := 0x01 }
    let sy := start 0xFFFF [0xA0, 0x80] [] State.reset
    sa.Iterating ∧ decode sa.instrBytes = .ok (.ldaAbsx 0xFF 0xFF, []) ∧ (Instr.ldaAbsx 0xFF 0xFF).operation = .lda ∧
    sx.Iterating ∧ decode sx.instrBytes = .ok (.ldxZpy 0xFF, [0x00]) ∧ (Instr.ldxZpy 0xFF).operation = .ldx ∧
    sy.Iterating ∧ decode sy.instrBytes = .ok (.ldyImm 0x80, [0x00]) ∧ (Instr.ldyImm 0x80).operation = .ldy := by decide

/-- The largest sum, 0x1FF. -/
theorem witness_AdcMeetsItsContract :
    let s := start 0x0200 [0x69, 0xFF] [] { State.reset with a := 0xFF, c := true }
    s.Iterating ∧ decode s.instrBytes = .ok (.adcImm 0xFF, [0x00]) ∧ (Instr.adcImm 0xFF).operation = .adc := by decide

theorem witness_AndMeetsItsContract :
    let s := start 0x0200 [0x3D, 0xFF, 0xFF] [] { State.reset with a := 0xFF, x := 0x03 }
    s.Iterating ∧ decode s.instrBytes = .ok (.andAbsx 0xFF 0xFF, []) ∧ (Instr.andAbsx 0xFF 0xFF).operation = .and := by decide

/-- The accumulator form and a memory form at the wrap. -/
theorem witness_AslMeetsItsContract :
    let s := start 0x0200 [0x0A] [] { State.reset with a := 0x80 }
    let u := start 0x0200 [0x1E, 0xFF, 0xFF] [(0x0000, 0x80)] { State.reset with x := 0x01 }
    s.Iterating ∧ decode s.instrBytes = .ok (.aslAcc, [0x00, 0x00]) ∧ Instr.aslAcc.operation = .asl ∧ Instr.aslAcc.mode = .acc ∧
    u.Iterating ∧ decode u.instrBytes = .ok (.aslAbsx 0xFF 0xFF, []) ∧ (Instr.aslAbsx 0xFF 0xFF).operation = .asl ∧
    (Instr.aslAbsx 0xFF 0xFF).mode ≠ .acc := by decide

/-- The three instructions, each at the wrap of PC or of SP; 0x0101 is outside the two cells JSR stores to. -/
theorem witness_ControlTransfersMeetTheirContracts :
    let j := start 0xFFFE [0x4C, 0x34, 0x12] [] State.reset
    let s := start 0xFFFD [0x20, 0x00, 0x80] [] { State.reset with sp := 0x00 }
    let r := start 0xFFFF [0x60] [] { State.reset with sp := 0xFE }
    j.Iterating ∧ decode j.instrBytes = .ok (.jmpAbs 0x34 0x12, []) ∧
    s.Iterating ∧ decode s.instrBytes = .ok (.jsrAbs 0x00 0x80, []) ∧
    (0x0101 : Addr) ≠ addrOf (0x0100 + s.sp.toNat) ∧ (0x0101 : Addr) ≠ addrOf (0x0100 + (s.sp.toNat + 255) % 256) ∧
    r.Iterating ∧ decode r.instrBytes = .ok (.rtsImp, [0x00, 0x00]) := by decide

/-- Both arms: an instruction, and an unrecognized opcode. -/
theorem witness_AccessesComeInTheSpecifiedOrder :
    let s := start 0xFFFE [0x20, 0x34, 0x12] [] State.reset
    let h := start 0xFFFF [0x02] [] State.reset
    s.Iterating ∧ decode s.instrBytes = .ok (.jsrAbs 0x34 0x12, []) ∧
    h.Iterating ∧ decode h.instrBytes = .error (.unrecognizedOpcode 0x02) := by decide

/-- Both arms, and the two ends of the access count: 1 and 5. -/
theorem witness_CyclesCountTheAccesses :
    let s := start 0x0200 [0x1E, 0xFF, 0x00] [] { State.reset with x := 0x01 }
    let h := start 0x0200 [0x0A] [] State.reset
    let u := start 0x0200 [0x02] [] State.reset
    s.Iterating ∧ decode s.instrBytes = .ok (.aslAbsx 0xFF 0x00, []) ∧ (after s).bus.length = 5 ∧
    h.Iterating ∧ (after h).bus.length = 1 ∧
    u.Iterating ∧ decode u.instrBytes = .error (.unrecognizedOpcode 0x02) := by decide

/-- Both ways an iteration goes: it halts, and it does not. -/
theorem witness_UnrecognizedOpcodeHalts :
    let h := start 0x0200 [0x02] [] State.reset
    let s := start 0x0200 [0x0A] [] State.reset
    h.Iterating ∧ h.halted = false ∧ (after h).halted = true ∧ s.Iterating ∧ s.halted = false ∧ (after s).halted = false := by
  decide

theorem witness_HaltLeavesTheStateOfTheLastInstruction :
    let s := start 0xFFFF [0xEA] [] State.reset
    s.Iterating ∧ (decodeOpcode (s.instrByte 0)).isNone = true := by decide

/-- `cancel` is 1 with an unrecognized opcode at PC: R215. -/
theorem witness_CancellationFetchesNothing :
    let s := start 0x0200 [0x02] [] { State.reset with cancelIn := [true] }
    s.running = true ∧ s.cancelSampled = true ∧ s.halted = false ∧ step s = .next (after s) := ⟨rfl, rfl, rfl, rfl⟩

theorem witness_RunStartsAtTheCurrentPc :
    State.reset.running = false ∧ { State.reset with hostOps := [.run] }.hostOps = .run :: [] ∧
    { State.reset with hostOps := [.observe, .run] }.hostOps = .observe :: [.run] ∧ State.reset.hostOps = [] := by decide

theorem witness_LoadWritesOneCellWithoutACycle :
    let s := { State.reset with hostOps := [.load 0xFFFF 0xFF, .run] }
    s.running = false ∧ s.hostOps = .load 0xFFFF 0xFF :: [.run] ∧ (0x0000 : Addr) ≠ 0xFFFF := by decide

theorem witness_ResetReplacesTheWholeState :
    let s := { State.reset with a := 0x55, halted := true, hostOps := [.reset, .run] }
    let r := start 0x0200 [0xA9, 0x01] [] { State.reset with hostOps := [.reset] }
    s.running = false ∧ s.hostOps = .reset :: [.run] ∧ r.running = true ∧ step r = .next (after r) :=
  ⟨rfl, rfl, rfl, rfl⟩

theorem witness_TheHostCanSingleStep :
    let s := { start 0x0200 [0xA9, 0x01] [] State.reset with running := false, hostOps := [.run], cancelIn := [false, true] }
    s.running = false ∧ s.hostOps = .run :: [] ∧ s.cancelIn = false :: true :: [] ∧
    decode s.instrBytes = .ok (.ldaImm 0x01, [0x00]) ∧
    ∃ t, exec (.ldaImm 0x01) ((startRun { s with hostOps := [] }).afterFetch (Instr.ldaImm 0x01).length) = .next t :=
  ⟨rfl, rfl, rfl, by decide, _, rfl⟩

/-- A state that meets the invariant and a step from it, for a run, a halt and an operation of the host. -/
theorem witness_EveryStepKeepsTheInvariant :
    let s := start 0x0200 [0x20, 0x34, 0x12] [] State.reset
    let h := start 0x0200 [0x02] [] State.reset
    let w := { State.reset with hostOps := [.load 0x0005 0x07] }
    s.Inv ∧ step s = .next (after s) ∧ h.Inv ∧ step h = .next (after h) ∧ w.Inv ∧ step w = .next (after w) :=
  ⟨by decide, rfl, by decide, rfl, by decide, rfl⟩

/-- The call of vector V67 and a return right at its target, with SP at the wrap. -/
theorem witness_ReturnResumesAfterTheCall :
    let s := start 0x0302 [0x20, 0x10, 0x03] [] { State.reset with sp := 0x00 }
    let t := after s
    let u := t.setCell 0x0310 0x60
    s.Iterating ∧ decode s.instrBytes = .ok (.jsrAbs 0x10 0x03, []) ∧ step s = .next t ∧
    u.Iterating ∧ decode u.instrBytes = .ok (.rtsImp, [0x00, 0x00]) ∧ u.sp = t.sp ∧
    u.mem.read (stackAddr s.sp) = t.mem.read (stackAddr s.sp) ∧
    u.mem.read (stackAddr (s.sp - 1)) = t.mem.read (stackAddr (s.sp - 1)) :=
  ⟨by decide, by decide, rfl, by decide, by decide, rfl, by decide, by decide⟩

theorem witness_NothingDependsOnTheCycleCounter :
    let s := start 0x0302 [0x20, 0x10, 0x03] [] State.reset
    step s = .next (after s) := rfl

/-- Both clauses: ADC with C as it is, and another instruction with C changed. -/
theorem witness_OnlyAdcReadsAFlag :
    (∃ t, exec (.adcImm 0x01) { State.reset with c := true } = .next t) ∧
    ((Instr.adcImm 0x01).operation = .adc → true = { State.reset with c := true }.c) ∧
    (∃ t, exec .aslAcc State.reset = .next t) ∧ Instr.aslAcc.operation ≠ .adc :=
  ⟨⟨_, rfl⟩, fun _ => rfl, ⟨_, rfl⟩, by decide⟩

/-- Vector V63: `ASL` writes the byte the next fetch reads. -/
theorem witness_AStoreIsSeenByTheNextFetch :
    let s := start 0x0200 [0x0E, 0x03, 0x02] [(0x0203, 0x30)] State.reset
    step s = .next (after s) ∧ BusAccess.write 0x0203 0x60 ∈ (after s).bus := ⟨rfl, by decide⟩

end Sys2Proof.Tests
end

section
/-!
PROOFS. Totality of the step (spec/00_scope.md R10, spec/60_exceptions.md R211): what `step` and `iterate` answer in each
of their cases, and that no instruction's meaning faults or refuses.
-/
namespace Sys2Proof.Machine

variable {s t : State}

theorem step_of_idle (hrun : s.running = false) : step s = .next (idleStep s) := by
  simp only [step, hrun]

theorem step_of_cancelled (hrun : s.running = true) (hcancel : s.cancelSampled = true) :
    step s = .next (endCancelled s.beginIteration) := by
  simp only [step, hrun, hcancel]

theorem step_of_iterating (h : s.Iterating) : step s = iterate s.beginIteration := by
  obtain ⟨hrun, hcancel⟩ := h
  simp only [step, hrun, hcancel]

theorem iterate_of_recognized {i : Instr} (h : fetchInstr s = .recognized i t) : iterate s = exec i t := by
  simp only [iterate, h]

theorem iterate_of_unrecognized {op : Byte} (h : fetchInstr s = .unrecognized op t) :
    iterate s = .next (raiseHalt op t) := by
  simp only [iterate, h]

/-- Each of the 36 meanings is a `.next` of a state, without a case that faults or refuses. -/
theorem exec_answers_next (i : Instr) (s : State) : ∃ t : State, exec i s = .next t := by
  cases i <;> exact ⟨_, rfl⟩

theorem iterate_answers_next (s : State) : ∃ t : State, iterate s = .next t := by
  cases hfetch : fetchInstr s with
  | recognized i t =>
    rw [iterate_of_recognized hfetch]
    exact exec_answers_next i t
  | unrecognized op t => exact ⟨raiseHalt op t, iterate_of_unrecognized hfetch⟩

/-- Settles O46, by the three cases of a step: the idle step and the cancelled run answer a state at once, and an iteration
answers the halt or what the instruction's meaning does. -/
theorem everyStateHasANextState : Obligations.EveryStateHasANextState := by
  intro s
  cases hrun : s.running with
  | false => exact ⟨idleStep s, step_of_idle hrun⟩
  | true =>
    cases hcancel : s.cancelSampled with
    | true => exact ⟨endCancelled s.beginIteration, step_of_cancelled hrun hcancel⟩
    | false =>
      rw [step_of_iterating ⟨hrun, hcancel⟩]
      exact iterate_answers_next s.beginIteration

end Sys2Proof.Machine
end

section
/-!
PROOFS. The meaning of a form by its operation (spec/41_load.md to spec/44_control_flow.md): the 36 arms of `exec` are nine
operations, each on the operand that the form's mode selects. Proofs split on `Instr.operation`, not on the 36 forms.
-/
namespace Sys2Proof
open Machine

/-- The operand byte at offset `k` after the opcode byte; 0 where the form has none. -/
def Instr.operandByte (i : Instr) (k : Nat) : Byte := i.operands.getD k 0x00

/-- The effective address of a form in a memory mode, as the resolver computes it; 0 in the other modes. -/
def Instr.address (i : Instr) (s : State) : Addr :=
  match i.mode with
  | .zp => eaZp (i.operandByte 0)
  | .zpx => eaZpx (i.operandByte 0) s
  | .zpy => eaZpy (i.operandByte 0) s
  | .abs => eaAbs (i.operandByte 0) (i.operandByte 1)
  | .absx => eaAbsx (i.operandByte 0) (i.operandByte 1) s
  | .absy => eaAbsy (i.operandByte 0) (i.operandByte 1) s
  | .imm | .acc | .imp => 0x0000

/-- The page crossing that a form passes to `Extra`. -/
def Instr.crossing (i : Instr) (s : State) : Bool :=
  match i.mode with
  | .absx => crossedX (i.operandByte 0) (i.operandByte 1) s
  | .absy => crossedY (i.operandByte 0) (i.operandByte 1) s
  | .imm | .zp | .zpx | .zpy | .abs | .acc | .imp => false

/-- The operand of a load, of ADC and of AND: the operand byte, or one read at the effective address. -/
def Instr.operand (i : Instr) (s : State) : Byte × State :=
  if i.mode = .imm then operandImm (i.operandByte 0) s else operandAt (i.address s) s

/-- The value of that operand. -/
def Instr.sourceByte (i : Instr) (s : State) : Byte :=
  if i.mode = .imm then i.operandByte 0 else s.mem.read (i.address s)

/-- The accesses that taking it makes. -/
def Instr.sourceAccesses (i : Instr) (s : State) : List BusAccess :=
  if i.mode = .imm then [] else [s.readOf (i.address s)]

/-- The state after ASL on the accumulator. -/
def shiftAccumulator (s : State) : State :=
  extra .asl .acc false (((s.setC (aslCarry s.a)).setA (aslResult s.a)).setZN (aslResult s.a))

/-- The state after a form's meaning. -/
def Instr.effect (i : Instr) (s : State) : State :=
  match i.operation with
  | .lda => loadA i.mode (i.crossing s) (i.operand s)
  | .ldx => loadX i.mode (i.crossing s) (i.operand s)
  | .ldy => loadY i.mode (i.crossing s) (i.operand s)
  | .adc => addWithCarry i.mode (i.crossing s) (i.operand s)
  | .and => bitwiseAnd i.mode (i.crossing s) (i.operand s)
  | .asl =>
    if i.mode = .acc then shiftAccumulator s else shiftMemory i.mode (i.crossing s) (i.address s) s
  | .jmp => extra .jmp .abs false (s.setPc (i.address s))
  | .jsr => extra .jsr .abs false ((pushWord (s.pc - 1) s).setPc (i.address s))
  | .rts => extra .rts .imp false ((pullWord s).2.setPc ((pullWord s).1 + 1))

theorem exec_eq_effect (i : Instr) (s : State) : exec i s = .next (i.effect s) := by
  cases i <;> rfl

theorem eq_effect_of_exec {i : Instr} {s t : State} (h : exec i s = .next t) : t = i.effect s := by
  rw [exec_eq_effect] at h
  exact (Host.Outcome.next.inj h).symm

/-- Taking the operand changes nothing but the cycle count and the memory port. -/
theorem Instr.operand_eq (i : Instr) (s : State) :
    i.operand s = (i.sourceByte s, s.counted (i.sourceAccesses s) 0) := by
  by_cases himm : i.mode = .imm
  · simp [Instr.operand, Instr.sourceByte, Instr.sourceAccesses, himm, operandImm, State.counted]
  · simp [Instr.operand, Instr.sourceByte, Instr.sourceAccesses, himm, operandAt, memRead_eq, State.counted, State.readOf]

theorem Instr.sourceAccesses_length_le (i : Instr) (s : State) : (i.sourceAccesses s).length ≤ 1 := by
  by_cases himm : i.mode = .imm <;> simp [Instr.sourceAccesses, himm]

/-- Only ASL on memory and JSR store, at the address of their meaning. -/
theorem Instr.stores_eq (i : Instr) (s : State) :
    i.stores s = match i.operation with
      | .asl => if i.mode = .acc then [] else [i.address s]
      | .jsr => [stackAddr s.sp, stackAddr (s.sp - 1)]
      | _ => [] := by
  cases i <;> rfl

/-- ASL writes A in its accumulator mode only. -/
theorem Instr.writesA_eq (i : Instr) :
    i.writesA = match i.operation with
      | .lda | .adc | .and => true
      | .asl => i.mode == .acc
      | _ => false := by
  cases i <;> rfl

end Sys2Proof
end

section
/-!
PROOFS. Who writes the registers and the flags (spec/10_state.md R21 to R36).
-/
namespace Sys2Proof
open Machine

/-- Of the registers, the flags and the state of the run, `t` has changed only what the form writes. -/
structure Instr.Frame (i : Instr) (s t : State) : Prop where
  keepsA : i.writesA = false → t.a = s.a
  keepsX : i.writesX = false → t.x = s.x
  keepsY : i.writesY = false → t.y = s.y
  keepsSp : i.writesSp = false → t.sp = s.sp
  keepsPc : i.writesPc = false → t.pc = s.pc
  keepsC : i.writesC = false → t.c = s.c
  keepsV : i.writesV = false → t.v = s.v
  keepsZN : i.writesZN = false → t.z = s.z ∧ t.n = s.n
  keepsI : t.i = s.i
  keepsD : t.d = s.d
  keepsB : t.b = s.b
  keepsHalted : t.halted = s.halted
  keepsHaltOpcode : t.haltOpcode = s.haltOpcode
  keepsRunning : t.running = s.running

theorem effect_frame (i : Instr) (s : State) : i.Frame s (i.effect s) := by
  cases hop : i.operation with
  | lda | ldx | ldy | adc | and =>
    constructor <;>
      simp [Instr.effect, hop, Instr.operand_eq, loadA_eq, loadX_eq, loadY_eq, addWithCarry_eq, bitwiseAnd_eq, State.counted,
        Instr.writesA_eq, Instr.writesX, Instr.writesY, Instr.writesC, Instr.writesV, Instr.writesZN, Instr.writesPc]
  | asl =>
    by_cases hacc : i.mode = .acc
    · constructor <;>
        simp [Instr.effect, hop, hacc, shiftAccumulator, Instr.writesA_eq, Instr.writesC, Instr.writesZN, Instr.writesPc]
    · constructor <;> simp [Instr.effect, hop, hacc, shiftMemory_eq, Instr.writesC, Instr.writesZN, Instr.writesPc]
  | jmp | jsr | rts =>
    constructor <;> simp [Instr.effect, hop, pushWord_eq, pullWord_eq, Instr.writesSp, Instr.writesPc]

/-- Settles O35, by the frame of the form's operation. -/
theorem registersHaveOnlyTheirWriters : Obligations.RegistersHaveOnlyTheirWriters := by
  intro i s t h
  obtain rfl := eq_effect_of_exec h
  have hframe := effect_frame i s
  exact ⟨hframe.keepsA, hframe.keepsX, hframe.keepsY, hframe.keepsSp⟩

/-- Settles O36, by the frame of the form's operation. -/
theorem flagsHaveOnlyTheirWriters : Obligations.FlagsHaveOnlyTheirWriters := by
  intro i s t h
  obtain rfl := eq_effect_of_exec h
  have hframe := effect_frame i s
  exact ⟨hframe.keepsC, hframe.keepsV, hframe.keepsZN, hframe.keepsI, hframe.keepsD, hframe.keepsB⟩

end Sys2Proof
end

section
/-!
PROOFS. Who writes memory, and where (spec/20_memory.md R70).
-/
namespace Sys2Proof
open Machine

variable (i : Instr) (s : State)

/-- Memory after a form's meaning: as it was, or with one byte written, or two, at the addresses the form stores to. -/
theorem effect_mem_cases :
    (i.stores s = [] ∧ (i.effect s).mem = s.mem) ∨
    (∃ p w, i.stores s = [p] ∧ (i.effect s).mem = s.mem.write p w) ∨
    (∃ p q v w, i.stores s = [p, q] ∧ (i.effect s).mem = (s.mem.write p v).write q w) := by
  cases hop : i.operation with
  | lda | ldx | ldy | adc | and =>
    left
    simp [Instr.stores_eq, Instr.effect, hop, Instr.operand_eq, loadA_eq, loadX_eq, loadY_eq, addWithCarry_eq, bitwiseAnd_eq,
      State.counted]
  | asl =>
    by_cases hacc : i.mode = .acc
    · left
      simp [Instr.stores_eq, Instr.effect, hop, hacc, shiftAccumulator]
    · right; left
      exact ⟨i.address s, aslResult (s.mem.read (i.address s)), by simp [Instr.stores_eq, hop, hacc],
        by simp [Instr.effect, hop, hacc, shiftMemory_eq]⟩
  | jsr =>
    right; right
    exact ⟨stackAddr s.sp, stackAddr (s.sp - 1), hiByte (s.pc - 1), loByte (s.pc - 1), by simp [Instr.stores_eq, hop],
      by simp [Instr.effect, hop, pushWord_eq]⟩
  | jmp | rts =>
    left
    simp [Instr.stores_eq, Instr.effect, hop, pullWord_eq]

theorem effect_read_of_not_mem_stores {p : Addr} (hp : p ∉ i.stores s) : (i.effect s).mem.read p = s.mem.read p := by
  rcases effect_mem_cases i s with ⟨-, hmem⟩ | ⟨q, w, hst, hmem⟩ | ⟨q, r, v, w, hst, hmem⟩
  · rw [hmem]
  · rw [hst, List.mem_singleton] at hp
    rw [hmem, Memory.read_write_ne hp]
  · simp only [hst, List.mem_cons, List.not_mem_nil, or_false, not_or] at hp
    obtain ⟨hq, hr⟩ := hp
    rw [hmem, Memory.read_write_ne hr, Memory.read_write_ne hq]

theorem effect_mem_wf (hwf : s.mem.wf = true) : (i.effect s).mem.wf = true := by
  rcases effect_mem_cases i s with ⟨-, hmem⟩ | ⟨q, w, -, hmem⟩ | ⟨q, r, v, w, -, hmem⟩
  · rw [hmem]
    exact hwf
  · rw [hmem]
    exact Memory.wf_write hwf q w
  · rw [hmem]
    exact Memory.wf_write (Memory.wf_write hwf q v) r w

theorem Instr.stores_ne_nil_iff : i.stores s ≠ [] ↔ i.operation = .jsr ∨ (i.operation = .asl ∧ i.mode ≠ .acc) := by
  cases hop : i.operation with
  | asl => by_cases hacc : i.mode = .acc <;> simp [Instr.stores_eq, hop, hacc]
  | lda | ldx | ldy | adc | and | jmp | jsr | rts => simp [Instr.stores_eq, hop]

/-- Settles O37, from the three ways a meaning leaves memory. -/
theorem onlyAslAndJsrWriteMemory : Obligations.OnlyAslAndJsrWriteMemory := by
  intro i s t h
  obtain rfl := eq_effect_of_exec h
  exact ⟨fun _ hp => effect_read_of_not_mem_stores i s hp, i.stores_ne_nil_iff s⟩

/-- Settles O38: both addresses that JSR stores to are stack addresses, and these stay in the page. -/
theorem jsrStoresOnlyInTheStackPage : Obligations.JsrStoresOnlyInTheStackPage := by
  intro lo8 hi8 s t h p hp
  obtain rfl := eq_effect_of_exec h
  have houtside (k : Byte) : p ≠ stackAddr k := by
    rintro rfl
    have hk := k.isLt
    rw [stackAddr_toNat] at hp
    omega
  exact effect_read_of_not_mem_stores _ s (by simp [Instr.stores, houtside])

end Sys2Proof
end

section
/-!
PROOFS. Z and N together, from the one result byte of a form (spec/10_state.md R34).
-/
namespace Sys2Proof
open Machine

variable (i : Instr) (s : State)

/-- A form that writes Z and N has one result byte: it sets both flags, and stands in the register or the one cell that
the form writes. -/
theorem effect_result :
    ∃ w : Byte, (i.writesZN = true → (i.effect s).z = (w == 0x00) ∧ (i.effect s).n = bit7 w) ∧
      (i.writesA = true → (i.effect s).a = w) ∧ (i.writesX = true → (i.effect s).x = w) ∧
      (i.writesY = true → (i.effect s).y = w) ∧
      (∀ ea : Addr, i.stores s = [ea] → (i.effect s).mem.read ea = w) := by
  cases hop : i.operation with
  | lda | ldx | ldy =>
    exact ⟨i.sourceByte s, by
      simp [Instr.effect, hop, Instr.operand_eq, loadA_eq, loadX_eq, loadY_eq, Instr.stores_eq, Instr.writesA_eq,
        Instr.writesX, Instr.writesY]⟩
  | adc =>
    exact ⟨adcResult s.a (i.sourceByte s) s.c, by
      simp [Instr.effect, hop, Instr.operand_eq, addWithCarry_eq, State.counted, Instr.stores_eq, Instr.writesX,
        Instr.writesY]⟩
  | and =>
    exact ⟨s.a &&& i.sourceByte s, by
      simp [Instr.effect, hop, Instr.operand_eq, bitwiseAnd_eq, State.counted, Instr.stores_eq, Instr.writesX,
        Instr.writesY]⟩
  | asl =>
    by_cases hacc : i.mode = .acc
    · exact ⟨aslResult s.a, by
        simp [Instr.effect, hop, hacc, shiftAccumulator, State.setZN, Instr.stores_eq, Instr.writesX, Instr.writesY]⟩
    · exact ⟨aslResult (s.mem.read (i.address s)), by
        simp [Instr.effect, hop, hacc, shiftMemory_eq, Instr.stores_eq, Instr.writesA_eq, Instr.writesX, Instr.writesY]⟩
  | jmp | jsr | rts =>
    exact ⟨0x00, by
      simp [hop, Instr.stores_eq, Instr.writesA_eq, Instr.writesX, Instr.writesY, Instr.writesZN, Instr.writesPc]⟩

theorem Instr.writesZN_iff :
    i.writesZN = true ↔ i.writesA = true ∨ i.writesX = true ∨ i.writesY = true ∨ ∃ ea : Addr, i.stores s = [ea] := by
  cases hop : i.operation with
  | asl =>
    by_cases hacc : i.mode = .acc <;>
      simp [hop, hacc, Instr.stores_eq, Instr.writesA_eq, Instr.writesX, Instr.writesY, Instr.writesZN, Instr.writesPc]
  | lda | ldx | ldy | adc | and | jmp | jsr | rts =>
    simp [hop, Instr.stores_eq, Instr.writesA_eq, Instr.writesX, Instr.writesY, Instr.writesZN, Instr.writesPc]

theorem setZN_eq_flagged (w : Byte) : s.setZN w = s.flagged w := by
  simp only [State.setZN, State.flagged, zero_eq_decide, bit7_eq_decide]

/-- Settles O25: the result byte of a form is the value that `SetZN` is given. -/
theorem setZnIsTheAuthorityForZAndN : Obligations.SetZnIsTheAuthorityForZAndN := by
  refine ⟨setZN_eq_flagged, fun i s t h => ?_⟩
  obtain rfl := eq_effect_of_exec h
  obtain ⟨w, hzn, ha, hx, hy, hcell⟩ := effect_result i s
  have hwrites := i.writesZN_iff s
  refine ⟨fun hw => ?_, fun hw => ?_, fun hw => ?_, fun ea hst => ?_, hwrites, (effect_frame i s).keepsZN⟩
  · rw [ha hw]
    exact hzn (hwrites.mpr (.inl hw))
  · rw [hx hw]
    exact hzn (hwrites.mpr (.inr (.inl hw)))
  · rw [hy hw]
    exact hzn (hwrites.mpr (.inr (.inr (.inl hw))))
  · rw [hcell ea hst]
    exact hzn (hwrites.mpr (.inr (.inr (.inr ⟨ea, hst⟩))))

end Sys2Proof
end

section
/-!
PROOFS. What a step can do (spec/46_execution_engine.md R190 to R196), and where it leaves PC.
-/
namespace Sys2Proof.Machine

variable {s t : State}

/-- The state after an iteration that finds an unrecognized opcode byte: the one fetch, then the halt
(spec/60_exceptions.md R212). -/
def haltStep (s : State) : State :=
  raiseHalt (s.mem.read s.pc)
    { s with pc := s.pc + 1, cyc := s.cyc + 1, cancelIn := s.cancelIn.tail, bus := [s.readOf s.pc] }

theorem step_of_decoded {i : Instr} {rest : List Byte} (hit : s.Iterating) (hdec : decode s.instrBytes = .ok (i, rest)) :
    step s = exec i (s.afterFetch i.length) := by
  rw [step_of_iterating hit]
  exact iterate_of_recognized (by rw [fetchInstr_eq, hdec])

theorem step_of_undecoded {e : DecodeError} (hit : s.Iterating) (hdec : decode s.instrBytes = .error e) :
    step s = .next (haltStep s) := by
  rw [step_of_iterating hit]
  exact iterate_of_unrecognized (by rw [fetchInstr_eq, hdec])

/-- What a step can do: a move of the host, the end of a cancelled run, the halt, or an instruction's meaning. -/
theorem step_cases (hstep : step s = .next t) :
    (s.running = false ∧ t = idleStep s) ∨
    (s.running = true ∧ s.cancelSampled = true ∧ t = endCancelled s.beginIteration) ∨
    (s.Iterating ∧ (∃ e, decode s.instrBytes = .error e) ∧ t = haltStep s) ∨
    (s.Iterating ∧ ∃ i rest, decode s.instrBytes = .ok (i, rest) ∧ t = i.effect (s.afterFetch i.length)) := by
  cases hrun : s.running with
  | false =>
    rw [step_of_idle hrun] at hstep
    exact .inl ⟨rfl, (Host.Outcome.next.inj hstep).symm⟩
  | true =>
    cases hcancel : s.cancelSampled with
    | true =>
      rw [step_of_cancelled hrun hcancel] at hstep
      exact .inr (.inl ⟨rfl, rfl, (Host.Outcome.next.inj hstep).symm⟩)
    | false =>
      have hit : s.Iterating := ⟨hrun, hcancel⟩
      cases hdec : decode s.instrBytes with
      | error e =>
        rw [step_of_undecoded hit hdec] at hstep
        exact .inr (.inr (.inl ⟨hit, ⟨e, rfl⟩, (Host.Outcome.next.inj hstep).symm⟩))
      | ok r =>
        rw [step_of_decoded hit hdec] at hstep
        exact .inr (.inr (.inr ⟨hit, r.1, r.2, rfl, eq_effect_of_exec hstep⟩))

/-- Settles O40: the fetch moves PC past the instruction's bytes, and its meaning leaves PC there. -/
theorem pcAdvancesByTheLength : Obligations.PcAdvancesByTheLength := by
  intro s i rest hit hdec hpc
  refine ⟨_, (step_of_decoded hit hdec).trans (exec_eq_effect _ _), ?_⟩
  rw [(effect_frame i _).keepsPc hpc]
  simp [State.afterFetch]

end Sys2Proof.Machine
end

section
/-!
PROOFS. What is not read: the flags, but for C in ADC (spec/10_state.md R26), and CYC (R35; spec/70_reset_and_hazards.md
R253).
-/
namespace Sys2Proof
open Machine

/-- Flags set otherwise before a form's meaning change nothing after it but the flags that the form does not write. -/
theorem effect_withFlags (i : Instr) (s : State) (c' z' i' d' b' v' n' : Bool) (hc : i.operation = .adc → c' = s.c) :
    i.effect { s with c := c', z := z', i := i', d := d', b := b', v := v', n := n' } =
      { i.effect s with
        c := if i.writesC then (i.effect s).c else c', z := if i.writesZN then (i.effect s).z else z', i := i', d := d'
        b := b', v := if i.writesV then (i.effect s).v else v', n := if i.writesZN then (i.effect s).n else n' } := by
  cases hop : i.operation with
  | adc =>
    obtain rfl := hc hop
    simp only [Instr.effect, hop, Instr.operand_eq, Instr.writesC, Instr.writesV, Instr.writesZN, Instr.writesPc]
    rfl
  | asl =>
    by_cases hacc : i.mode = .acc <;>
      simp only [Instr.effect, hop, hacc, Instr.writesC, Instr.writesV, Instr.writesZN, Instr.writesPc] <;> rfl
  | lda | ldx | ldy | and | jmp | jsr | rts =>
    simp only [Instr.effect, hop, Instr.operand_eq, Instr.writesC, Instr.writesV, Instr.writesZN, Instr.writesPc]
    rfl

/-- Settles O57: each operation's meaning is computed from elements that are no flags, and in ADC from C. -/
theorem onlyAdcReadsAFlag : Obligations.OnlyAdcReadsAFlag := by
  intro i s t c' z' i' d' b' v' n' h hc
  obtain rfl := eq_effect_of_exec h
  rw [exec_eq_effect, effect_withFlags i s c' z' i' d' b' v' n' hc]

theorem effect_withCyc (i : Instr) (s : State) (k : Nat) :
    ∃ k' : Nat, i.effect { s with cyc := k } = { i.effect s with cyc := k' } := by
  refine ⟨(i.effect { s with cyc := k }).cyc, ?_⟩
  cases hop : i.operation with
  | asl => by_cases hacc : i.mode = .acc <;> simp only [Instr.effect, hop, hacc] <;> rfl
  | lda | ldx | ldy | adc | and | jmp | jsr | rts =>
    simp only [Instr.effect, hop, Instr.operand_eq]
    rfl

theorem idleStep_withCyc (s : State) (k : Nat) (accs : List BusAccess) :
    ∃ k' : Nat, idleStep { s with cyc := k, bus := accs } = { idleStep s with cyc := k' } := by
  cases hops : s.hostOps with
  | nil => exact ⟨k, by simp only [idleStep, hops]⟩
  | cons op ops =>
    cases op with
    | reset | run => exact ⟨0, by simp only [idleStep, hops]; rfl⟩
    | load | observe => exact ⟨k, by simp only [idleStep, hops]; rfl⟩

/-- Settles O56: in each case of a step the same case answers from the other state, and only CYC can differ. -/
theorem nothingDependsOnTheCycleCounter : Obligations.NothingDependsOnTheCycleCounter := by
  intro s t k accs hstep
  rcases step_cases hstep with ⟨hrun, rfl⟩ | ⟨hrun, hcancel, rfl⟩ | ⟨hit, ⟨e, hdec⟩, rfl⟩ | ⟨hit, i, rest, hdec, rfl⟩
  · obtain ⟨k', hidle⟩ := idleStep_withCyc s k accs
    exact ⟨k', (step_of_idle (s := { s with cyc := k, bus := accs }) hrun).trans (congrArg _ hidle)⟩
  · exact ⟨k, step_of_cancelled hrun hcancel⟩
  · exact ⟨k + 1, step_of_undecoded hit hdec⟩
  · obtain ⟨k', heffect⟩ := effect_withCyc i (s.afterFetch i.length) (k + i.length)
    exact ⟨k', (step_of_decoded (s := { s with cyc := k, bus := accs }) hit hdec).trans
      ((exec_eq_effect _ _).trans (congrArg _ heffect))⟩

end Sys2Proof
end

section
/-!
PROOFS. The invariant: what a meaning does to each of its clauses, then each of the four cases of a step
(spec/10_state.md R25, R29 to R31, R34, R36; spec/60_exceptions.md R210; spec/70_reset_and_hazards.md R253).
-/
namespace Sys2Proof
open Machine

/-- SP moves by two or not at all. -/
theorem effect_sp_parity (i : Instr) (s : State) : (i.effect s).sp.toNat % 2 = s.sp.toNat % 2 := by
  cases hop : i.operation with
  | jsr =>
    have hdown : (i.effect s).sp = s.sp - 1 - 1 := by simp [Instr.effect, hop, pushWord_eq]
    rw [hdown]
    bv_omega
  | rts =>
    have hup : (i.effect s).sp = s.sp + 1 + 1 := by simp [Instr.effect, hop, pullWord_eq]
    rw [hup]
    bv_omega
  | lda | ldx | ldy | adc | and | asl | jmp => rw [(effect_frame i s).keepsSp (by simp [Instr.writesSp, hop])]

theorem effect_bus_length_le (i : Instr) (s : State) : (i.effect s).bus.length ≤ s.bus.length + 2 := by
  cases hop : i.operation with
  | lda | ldx | ldy | adc | and =>
    have hbus : (i.effect s).bus = s.bus ++ i.sourceAccesses s := by
      simp [Instr.effect, hop, Instr.operand_eq, loadA_eq, loadX_eq, loadY_eq, addWithCarry_eq, bitwiseAnd_eq, State.counted]
    have hread := i.sourceAccesses_length_le s
    rw [hbus, List.length_append]
    omega
  | asl => by_cases hacc : i.mode = .acc <;> simp [Instr.effect, hop, hacc, shiftAccumulator, shiftMemory_eq]
  | jmp | jsr | rts => simp [Instr.effect, hop, pushWord_eq, pullWord_eq]

theorem not_zero_and_bit7 (w : Byte) : (w == 0x00 && bit7 w) = false := by
  cases hz : w == 0x00 with
  | false => rfl
  | true =>
    obtain rfl := eq_of_beq hz
    rfl

/-- Z and N come from one byte or stay, so they are not both 1. -/
theorem effect_not_zn (i : Instr) {s : State} (hzn : (s.z && s.n) = false) : ((i.effect s).z && (i.effect s).n) = false := by
  cases hw : i.writesZN with
  | true =>
    obtain ⟨w, hset, -⟩ := effect_result i s
    obtain ⟨hz, hn⟩ := hset hw
    rw [hz, hn, not_zero_and_bit7]
  | false =>
    obtain ⟨hz, hn⟩ := (effect_frame i s).keepsZN hw
    rw [hz, hn, hzn]

theorem Instr.length_le (i : Instr) : i.length ≤ 3 := by
  cases hmode : i.mode <;> simp [Instr.length, hmode, Mode.operandBytes]

theorem afterFetch_bus_length (s : State) (n : Nat) : (s.afterFetch n).bus.length = n := by simp [State.afterFetch]

theorem decodeOpcode_isNone_of_decode_error {op b₁ b₂ : Byte} {e : DecodeError} (hdec : decode [op, b₁, b₂] = .error e) :
    (decodeOpcode op).isNone = true := by
  cases hop : decodeOpcode op with
  | none => rfl
  | some f => cases f <;> simp [decode, hop] at hdec

variable {s : State}

theorem inv_effect (i : Instr) (hinv : s.Inv) (hbus : s.bus.length ≤ 3) : (i.effect s).Inv := by
  obtain ⟨hwf, hhalt, hop, hzn, hi, hd, hb, hsp, -⟩ := hinv
  have hframe := effect_frame i s
  refine ⟨effect_mem_wf i s hwf, ?_, ?_, effect_not_zn i hzn, hframe.keepsI.trans hi, hframe.keepsD.trans hd,
    hframe.keepsB.trans hb, (effect_sp_parity i s).trans hsp, ?_⟩
  · rw [hframe.keepsHalted, hframe.keepsRunning]
    exact hhalt
  · rw [hframe.keepsHalted, hframe.keepsHaltOpcode]
    exact hop
  · exact (effect_bus_length_le i s).trans (Nat.add_le_add_right hbus 2)

/-- The invariant sees the accesses only by their number. -/
theorem inv_withBus (hinv : s.Inv) {accs : List BusAccess} (hlen : accs.length ≤ 5) : State.Inv { s with bus := accs } := by
  obtain ⟨hwf, hhalt, hop, hzn, hi, hd, hb, hsp, -⟩ := hinv
  exact ⟨hwf, hhalt, hop, hzn, hi, hd, hb, hsp, hlen⟩

/-- Settles O53: HALTED is 0 after reset, and every other clause is the value in the table. -/
theorem resetMeetsTheInvariant : Obligations.ResetMeetsTheInvariant :=
  ⟨Memory.wf_nil, fun _ => rfl, nofun, rfl, rfl, rfl, rfl, rfl, Nat.zero_le 5⟩

theorem inv_hostDo (op : HostOp) (hinv : s.Inv) : (hostDo op s).Inv := by
  obtain ⟨hwf, hhalt, hop, hrest⟩ := hinv
  cases op with
  | reset => exact resetMeetsTheInvariant
  | load p w => exact ⟨Memory.wf_write hwf p w, hhalt, hop, hrest⟩
  | run => exact ⟨hwf, nofun, nofun, hrest⟩
  | observe => exact ⟨hwf, hhalt, hop, hrest⟩

theorem inv_idleStep (hinv : s.Inv) : (idleStep s).Inv := by
  have hcleared := inv_withBus hinv (accs := []) (Nat.zero_le 5)
  cases hops : s.hostOps with
  | nil =>
    simp only [idleStep, hops]
    exact hcleared
  | cons op ops =>
    simp only [idleStep, hops]
    exact inv_hostDo op hcleared

theorem inv_endCancelled (hinv : s.Inv) : (endCancelled s).Inv := by
  obtain ⟨hwf, -, hrest⟩ := hinv
  exact ⟨hwf, fun _ => rfl, hrest⟩

theorem inv_raiseHalt {op : Byte} (hinv : s.Inv) (hop : (decodeOpcode op).isNone = true) : (raiseHalt op s).Inv := by
  obtain ⟨hwf, -, -, hrest⟩ := hinv
  exact ⟨hwf, fun _ => rfl, fun _ => hop, hrest⟩

/-- Settles O54, by the four cases of a step: the fetch shows at most three accesses and a meaning at most two more. -/
theorem everyStepKeepsTheInvariant : Obligations.EveryStepKeepsTheInvariant := by
  intro s t hinv hstep
  rcases step_cases hstep with ⟨-, rfl⟩ | ⟨-, -, rfl⟩ | ⟨-, ⟨e, hdec⟩, rfl⟩ | ⟨-, i, rest, -, rfl⟩
  · exact inv_idleStep hinv
  · exact inv_endCancelled (inv_withBus hinv (Nat.zero_le 5))
  · have hop := decodeOpcode_isNone_of_decode_error hdec
    rw [State.instrByte_zero] at hop
    exact inv_raiseHalt (inv_withBus hinv (accs := [s.readOf s.pc]) (by simp)) hop
  · have hlen : (s.afterFetch i.length).bus.length ≤ 3 := by
      rw [afterFetch_bus_length]
      exact i.length_le
    exact inv_effect i (inv_withBus hinv (hlen.trans (by omega))) hlen

end Sys2Proof
end

section
/-!
PROOFS. Memory in canonical form is one list for one content (spec/10_state.md R37), the stack at its wrap
(spec/20_memory.md R60, R61), and the table of reset values (spec/10_state.md R41).
-/
namespace Sys2Proof.Machine

/-- Below the addresses of a canonical list every cell reads as the background. -/
theorem cellAt_of_lt {lo a : Nat} {m : Memory} (hm : canonicalAbove lo m = true) (ha : a < lo) :
    cellAt a m = memBackground a := by
  induction m generalizing lo with
  | nil => rfl
  | cons cell rest ih =>
    obtain ⟨hlo, -, -, hrest⟩ := (canonicalAbove_cons _ _ _).mp hm
    have hne : cell.1 ≠ a := by omega
    simp only [cellAt, hne, if_false]
    exact ih hrest (by omega)

/-- A canonical list that starts above the first cell of another reads otherwise there. -/
theorem cellAt_head_ne {lo : Nat} {cell : Host.Cell} {rest k : Memory}
    (hm : canonicalAbove lo (cell :: rest) = true) (hk : canonicalAbove (cell.1 + 1) k = true) :
    cellAt cell.1 (cell :: rest) ≠ cellAt cell.1 k := by
  obtain ⟨-, -, hv, -⟩ := (canonicalAbove_cons _ _ _).mp hm
  rw [cellAt_of_lt hk (Nat.lt_succ_self _)]
  simpa [cellAt] using hv

/-- Past equal first cells the rests read alike: below they are background, above nothing changes. -/
theorem cellAt_tail_eq {a : Nat} {v : Byte} {m k : Memory} (hm : canonicalAbove (a + 1) m = true)
    (hk : canonicalAbove (a + 1) k = true) {p : Nat} (hread : cellAt p ((a, v) :: m) = cellAt p ((a, v) :: k)) :
    cellAt p m = cellAt p k := by
  by_cases hle : p < a + 1
  · rw [cellAt_of_lt hm hle, cellAt_of_lt hk hle]
  · have hne : a ≠ p := by omega
    simpa [cellAt, hne] using hread

theorem eq_of_cellAt_eq {lo lo' : Nat} {m k : Memory} (hm : canonicalAbove lo m = true) (hk : canonicalAbove lo' k = true)
    (hread : ∀ p < 65536, cellAt p m = cellAt p k) : m = k := by
  induction m generalizing lo lo' k with
  | nil =>
    cases k with
    | nil => rfl
    | cons cell rest =>
      obtain ⟨-, hlt, -, -⟩ := (canonicalAbove_cons _ _ _).mp hk
      exact absurd (hread cell.1 hlt).symm (cellAt_head_ne hk rfl)
  | cons cell rest ih =>
    obtain ⟨-, hlt, hbg, hrest⟩ := (canonicalAbove_cons _ _ _).mp hm
    cases k with
    | nil => exact absurd (hread cell.1 hlt) (cellAt_head_ne hm rfl)
    | cons cell' rest' =>
      obtain ⟨-, hlt', hbg', hrest'⟩ := (canonicalAbove_cons _ _ _).mp hk
      rcases Nat.lt_trichotomy cell.1 cell'.1 with hbelow | heq | habove
      · have hstart := (canonicalAbove_cons (cell.1 + 1) _ _).mpr ⟨hbelow, hlt', hbg', hrest'⟩
        exact absurd (hread cell.1 hlt) (cellAt_head_ne hm hstart)
      · obtain ⟨a, v⟩ := cell
        obtain ⟨a', v'⟩ := cell'
        obtain rfl : a = a' := heq
        obtain rfl : v = v' := by simpa [cellAt] using hread a hlt
        rw [ih hrest hrest' fun p hp => cellAt_tail_eq hrest hrest' (hread p hp)]
      · have hstart := (canonicalAbove_cons (cell'.1 + 1) _ _).mpr ⟨habove, hlt, hbg, hrest⟩
        exact absurd (hread cell'.1 hlt').symm (cellAt_head_ne hk hstart)

/-- Settles O9, by induction on the two lists: where their first cells differ, a read tells. -/
theorem canonicalMemoriesThatReadAlikeAreEqual : Obligations.CanonicalMemoriesThatReadAlikeAreEqual := by
  intro m k hm hk hread
  refine eq_of_cellAt_eq hm hk fun a ha => ?_
  have haddr : (BitVec.ofNat 16 a).toNat = a := Nat.mod_eq_of_lt ha
  simpa only [Memory.read, haddr] using hread (BitVec.ofNat 16 a)

/-- Settles O10, from the equations of push and pull by the integer readings of the stack address and of SP. -/
theorem pushAndPullWrapInTheStackPage : Obligations.PushAndPullWrapInTheStackPage := by
  intro s w
  rw [stack_at, stack_above, sp_add_255, sp_add_1]
  exact ⟨push_eq w s, pull_eq s⟩

/-- Settles O50: the registers and flags by their values in `State.reset`, a cell by the background of its empty memory. -/
theorem resetLeavesTheTableOfValues : Obligations.ResetLeavesTheTableOfValues :=
  ⟨rfl, rfl, rfl, rfl, rfl, rfl, rfl, rfl, rfl, rfl, rfl, rfl, rfl, rfl, rfl, rfl,
    fun p => apply_ite BitVec.toNat (p.toNat = 0xFFFC) seedOpcode 0x00⟩

end Sys2Proof.Machine
end

section
/-!
PROOFS. The accesses of the memory and the stack (spec/20_memory.md R52 to R63, R71, R72).
-/
namespace Sys2Proof.Machine

theorem hiByte_eq_ofNat (w : Addr) : BitVec.ofNat 8 (w.toNat / 256) = hiByte w := by
  rw [← hiByte_toNat, BitVec.ofNat_toNat, BitVec.setWidth_eq]

theorem loByte_eq_ofNat (w : Addr) : BitVec.ofNat 8 (w.toNat % 256) = loByte w := by
  rw [← loByte_toNat, BitVec.ofNat_toNat, BitVec.setWidth_eq]

/-- What a word read returns, and what it leaves. -/
theorem memReadWord_eq (p : Addr) (s : State) :
    memReadWord p s = (word (s.mem.read (p + 1)) (s.mem.read p), s.counted [s.readOf p, s.readOf (p + 1)] 0) := by
  simp [memReadWord, memRead_eq, State.counted, State.readOf]

theorem pushWord_eq_counted (w : Addr) (s : State) :
    pushWord w s =
      { s.counted [.write (stackAddr s.sp) (hiByte w), .write (stackAddr (s.sp - 1)) (loByte w)] 0 with
        sp := s.sp - 1 - 1
        mem := (s.mem.write (stackAddr s.sp) (hiByte w)).write (stackAddr (s.sp - 1)) (loByte w) } := by
  simp [pushWord_eq, State.counted]

theorem pullWord_eq_counted (s : State) :
    pullWord s =
      (word (s.mem.read (stackAddr (s.sp + 1 + 1))) (s.mem.read (stackAddr (s.sp + 1))),
        { s.counted [s.readOf (stackAddr (s.sp + 1)), s.readOf (stackAddr (s.sp + 1 + 1))] 0 with sp := s.sp + 1 + 1 }) := by
  simp [pullWord_eq, State.counted, State.readOf]

theorem pullWord_mem (s : State) : (pullWord s).2.mem = s.mem := rfl

theorem pushWord_read_top (w : Addr) (s : State) : (pushWord w s).mem.read (stackAddr s.sp) = hiByte w := by
  rw [pushWord_eq, Memory.read_write_ne (stackAddr_ne_below s.sp), Memory.read_write_self]

theorem pushWord_read_below (w : Addr) (s : State) : (pushWord w s).mem.read (stackAddr (s.sp - 1)) = loByte w := by
  rw [pushWord_eq, Memory.read_write_self]

theorem pushWord_read_ne {w p : Addr} {s : State} (htop : p ≠ stackAddr s.sp) (hbelow : p ≠ stackAddr (s.sp - 1)) :
    (pushWord w s).mem.read p = s.mem.read p := by
  rw [pushWord_eq, Memory.read_write_ne hbelow, Memory.read_write_ne htop]

/-- The pulls go to the cells of the pushes: SP comes back up the way it went down. -/
theorem pullWord_pushWord (w : Addr) (s : State) :
    (pullWord (pushWord w s)).1 = w ∧ (pullWord (pushWord w s)).2.sp = s.sp := by
  have hup : (pushWord w s).sp + 1 = s.sp - 1 := by simp [pushWord_eq]
  have hupup : s.sp - 1 + 1 = s.sp := BitVec.sub_add_cancel _ _
  rw [pullWord_eq, hup, hupup, pushWord_read_top, pushWord_read_below, word_hiByte_loByte]
  exact ⟨rfl, rfl⟩

/-- Settles O11, from the reads after a pushed word. -/
theorem pullWordUndoesPushWord : Obligations.PullWordUndoesPushWord := by
  intro s w
  obtain ⟨hword, hsp⟩ := pullWord_pushWord w s
  refine ⟨hword, hsp, ?_, fun p htop hbelow => ?_⟩
  · simp only [pullWord_eq, pushWord_eq]
  · rw [stack_at] at htop
    rw [stack_below] at hbelow
    rw [pullWord_mem, pushWord_read_ne htop hbelow]

/-- Settles O6: the equation of a read. -/
theorem memReadReturnsTheCell : Obligations.MemReadReturnsTheCell :=
  fun _ _ => ⟨rfl, rfl⟩

/-- Settles O7, by the two laws of a read after a write. -/
theorem memWriteChangesOneCell : Obligations.MemWriteChangesOneCell :=
  fun s p _ w => ⟨s.mem.read_write_self p w, fun hne => Memory.read_write_ne hne s.mem w, rfl⟩

/-- Settles O8: a word read is its two reads, and the two cells of a word are two, also at the wrap. -/
theorem wordReadIsLittleEndian : Obligations.WordReadIsLittleEndian := by
  intro s p w v
  rw [addrOf_succ]
  refine ⟨⟨word_toNat _ _, rfl, rfl⟩, s.mem.read_write_self p v, ?_⟩
  rw [memReadWord_eq, memWrite_eq, memWrite_eq, Memory.read_write_self, Memory.read_write_ne (succ_ne_self p).symm,
    Memory.read_write_self, word_of_bytes]

/-- Settles O48: the idle step performs the Load, which is a write of the cell alone. -/
theorem loadWritesOneCellWithoutACycle : Obligations.LoadWritesOneCellWithoutACycle := by
  intro s p w ops hidle hops
  have hload : idleStep s = State.setCell { s with hostOps := ops, bus := [] } p w := by simp only [idleStep, hops, hostDo]
  exact ⟨_, (step_of_idle hidle).trans (congrArg _ hload), s.mem.read_write_self p w,
    fun q hne => Memory.read_write_ne hne s.mem w, rfl⟩

end Sys2Proof.Machine
end

section
/-!
PROOFS. JSR and RTS on the stack (spec/44_control_flow.md R171, R172).
-/
namespace Sys2Proof.Machine

/-- Settles O23, from the equation of a pushed word by the integer readings of the stack addresses and of SP. -/
theorem jsrPushesTheReturnAddress : Obligations.JsrPushesTheReturnAddress := by
  intro s lo8 hi8
  simp only [stack_at, stack_below, sp_add_254, addrOf_abs, ← pred_toNat, hiByte_eq_ofNat, loByte_eq_ofNat]
  rw [exec_eq_effect]
  simp only [Instr.effect, Instr.operation, pushWord_eq_counted]
  rfl

/-- Settles O24, from the equation of a pulled word by the integer readings of the stack addresses and of SP. -/
theorem rtsReturnsPastThePulledAddress : Obligations.RtsReturnsPastThePulledAddress := by
  intro s
  simp only [stack_above, stack_above_two, sp_add_2, ← word_toNat, addrOf_succ]
  rw [exec_eq_effect]
  simp only [Instr.effect, Instr.operation, pullWord_eq_counted]
  rfl

end Sys2Proof.Machine
end

section
/-!
PROOFS. The memory port (spec/46_execution_engine.md R203): the accesses of a form's meaning, the accesses of a step, and
that a byte shown as written is in its cell (spec/20_memory.md R68).
-/
namespace Sys2Proof
open Machine

/-- Every form is a row of spec/30_encoding.md R86. -/
theorem Instr.mode_mem_modes (i : Instr) : i.mode ∈ i.operation.modes := by
  cases i <;> simp [Instr.mode, Instr.operation, Operation.modes]

/-- The integer formulas of the resolver give the address that the meaning uses. -/
theorem Instr.effectiveAddress_eq (i : Instr) (s : State) :
    i.effectiveAddress s =
      if i.mode = .imm ∨ i.mode = .acc ∨ i.mode = .imp then none else some (i.address s) := by
  cases i with
  | ldaImm | ldxImm | ldyImm | adcImm | andImm | aslAcc | rtsImp => rfl
  | ldaZp d8 | ldxZp d8 | ldyZp d8 | adcZp d8 | andZp d8 | aslZp d8 => exact congrArg some (addrOf_zp d8)
  | ldaZpx d8 | ldyZpx d8 | adcZpx d8 | andZpx d8 | aslZpx d8 => exact congrArg some (addrOf_zp_indexed d8 s.x)
  | ldxZpy d8 => exact congrArg some (addrOf_zp_indexed d8 s.y)
  | ldaAbs lo8 hi8 | ldxAbs lo8 hi8 | ldyAbs lo8 hi8 | adcAbs lo8 hi8 | andAbs lo8 hi8 | aslAbs lo8 hi8 | jmpAbs lo8 hi8
  | jsrAbs lo8 hi8 => exact congrArg some (addrOf_abs lo8 hi8)
  | ldaAbsx lo8 hi8 | ldyAbsx lo8 hi8 | adcAbsx lo8 hi8 | andAbsx lo8 hi8 | aslAbsx lo8 hi8 =>
    exact congrArg some (addrOf_abs_indexed lo8 hi8 s.x)
  | ldaAbsy lo8 hi8 | ldxAbsy lo8 hi8 | adcAbsy lo8 hi8 | andAbsy lo8 hi8 =>
    exact congrArg some (addrOf_abs_indexed lo8 hi8 s.y)

/-- The accesses that a form's meaning makes, as it makes them. -/
def Instr.meaningAccesses (i : Instr) (s : State) : List BusAccess :=
  match i.operation with
  | .lda | .ldx | .ldy | .adc | .and => i.sourceAccesses s
  | .asl =>
    if i.mode = .acc then []
    else [s.readOf (i.address s), .write (i.address s) (aslResult (s.mem.read (i.address s)))]
  | .jmp => []
  | .jsr => [.write (stackAddr s.sp) (hiByte (s.pc - 1)), .write (stackAddr (s.sp - 1)) (loByte (s.pc - 1))]
  | .rts => [s.readOf (stackAddr (s.sp + 1)), s.readOf (stackAddr (s.sp + 1 + 1))]

theorem effect_bus (i : Instr) (s : State) : (i.effect s).bus = s.bus ++ i.meaningAccesses s := by
  cases hop : i.operation with
  | lda | ldx | ldy | adc | and =>
    simp [Instr.effect, Instr.meaningAccesses, hop, Instr.operand_eq, loadA_eq, loadX_eq, loadY_eq, addWithCarry_eq,
      bitwiseAnd_eq, State.counted]
  | asl =>
    by_cases hacc : i.mode = .acc <;>
      simp [Instr.effect, Instr.meaningAccesses, hop, hacc, shiftAccumulator, shiftMemory_eq, State.readOf]
  | jmp | jsr | rts =>
    simp [Instr.effect, Instr.meaningAccesses, hop, pushWord_eq_counted, pullWord_eq_counted, State.counted]

@[simp] theorem afterFetch_mem (s : State) (n : Nat) : (s.afterFetch n).mem = s.mem := rfl

@[simp] theorem afterFetch_readOf (s : State) (n : Nat) (p : Addr) : (s.afterFetch n).readOf p = s.readOf p := rfl

/-- The fetch moves no index register, so the address is that of the top of the iteration. -/
@[simp] theorem Instr.address_afterFetch (i : Instr) (s : State) (n : Nat) : i.address (s.afterFetch n) = i.address s := rfl

/-- JSR has three bytes, so PC - 1 after its fetch is PC + 2 before it. -/
theorem jsr_return_toNat {i : Instr} (hop : i.operation = .jsr) (s : State) :
    ((s.afterFetch i.length).pc - 1).toNat = (s.pc.toNat + 2) % 65536 := by
  have hmode : i.mode = .abs := by simpa [hop, Operation.modes] using i.mode_mem_modes
  rw [pred_toNat]
  simp only [State.afterFetch, Instr.length, hmode, Mode.operandBytes, BitVec.toNat_add, BitVec.toNat_ofNat]
  omega

/-- The table of R203, read at the top of the iteration, lists the accesses of the meaning, which starts after the fetch. -/
theorem Instr.dataAccesses_eq (i : Instr) (s : State) : i.dataAccesses s = i.meaningAccesses (s.afterFetch i.length) := by
  have hmodes := i.mode_mem_modes
  cases hop : i.operation with
  | lda | ldx | ldy | adc | and =>
    obtain ⟨hacc, himp⟩ : i.mode ≠ .acc ∧ i.mode ≠ .imp := by
      constructor <;> intro hmode <;> simp [hop, hmode, Operation.modes] at hmodes
    by_cases himm : i.mode = .imm <;>
      simp [Instr.dataAccesses, Instr.meaningAccesses, Instr.sourceAccesses, Instr.effectiveAddress_eq, hop, himm, hacc, himp]
  | asl =>
    obtain ⟨himm, himp⟩ : i.mode ≠ .imm ∧ i.mode ≠ .imp := by
      constructor <;> intro hmode <;> simp [hop, hmode, Operation.modes] at hmodes
    by_cases hacc : i.mode = .acc <;>
      simp [Instr.dataAccesses, Instr.meaningAccesses, Instr.effectiveAddress_eq, hop, himm, hacc, himp, aslResult_eq]
  | jmp => simp [Instr.dataAccesses, Instr.meaningAccesses, hop]
  | jsr =>
    have hret := jsr_return_toNat hop s
    have hlow : (s.pc.toNat + 2) % 256 = (s.pc.toNat + 2) % 65536 % 256 := by omega
    simp only [Instr.dataAccesses, Instr.meaningAccesses, hop, stack_at, stack_below]
    rw [hlow, ← hret, hiByte_eq_ofNat, loByte_eq_ofNat]
    rfl
  | rts =>
    simp only [Instr.dataAccesses, Instr.meaningAccesses, hop, stack_above, stack_above_two]
    rfl

/-- Settles O41: the fetch shows the instruction's bytes, and the meaning adds its accesses behind them. -/
theorem accessesComeInTheSpecifiedOrder : Obligations.AccessesComeInTheSpecifiedOrder := by
  intro s hit
  cases hdec : decode s.instrBytes with
  | error e => exact ⟨_, step_of_undecoded hit hdec, rfl⟩
  | ok r =>
    obtain ⟨i, rest⟩ := r
    refine ⟨_, (step_of_decoded hit hdec).trans (exec_eq_effect _ _), ?_⟩
    simp only [effect_bus, Instr.dataAccesses_eq, addrOf_toNat_add]
    rfl

/-- Of the bytes that a meaning writes, none is overwritten by it. -/
theorem effect_read_of_write_mem {i : Instr} {s : State} {p : Addr} {w : Byte} (h : .write p w ∈ i.meaningAccesses s) :
    (i.effect s).mem.read p = w := by
  cases hop : i.operation with
  | lda | ldx | ldy | adc | and =>
    by_cases himm : i.mode = .imm <;> simp [Instr.meaningAccesses, Instr.sourceAccesses, hop, himm, State.readOf] at h
  | asl =>
    by_cases hacc : i.mode = .acc
    · simp [Instr.meaningAccesses, hop, hacc] at h
    · simp only [Instr.meaningAccesses, hop, hacc, State.readOf, if_false, List.mem_cons, List.not_mem_nil, or_false,
        reduceCtorEq, false_or, BusAccess.write.injEq] at h
      obtain ⟨rfl, rfl⟩ := h
      simp [Instr.effect, hop, hacc, shiftMemory_eq]
  | jmp | rts => simp [Instr.meaningAccesses, hop, State.readOf] at h
  | jsr =>
    have hmem : (i.effect s).mem = (pushWord (s.pc - 1) s).mem := by simp [Instr.effect, hop]
    rw [hmem]
    simp only [Instr.meaningAccesses, hop, List.mem_cons, List.not_mem_nil, or_false, BusAccess.write.injEq] at h
    obtain ⟨rfl, rfl⟩ | ⟨rfl, rfl⟩ := h
    · exact pushWord_read_top _ s
    · exact pushWord_read_below _ s

theorem idleStep_bus (s : State) : (idleStep s).bus = [] := by
  cases hops : s.hostOps with
  | nil => simp only [idleStep, hops]
  | cons op ops => cases op <;> simp only [idleStep, hops] <;> rfl

/-- The bytes that a step shows as written are in their cells. -/
theorem step_read_of_write_mem {s t : State} {p : Addr} {w : Byte} (hstep : step s = .next t)
    (h : .write p w ∈ t.bus) : t.mem.read p = w := by
  rcases step_cases hstep with ⟨-, rfl⟩ | ⟨-, -, rfl⟩ | ⟨-, -, rfl⟩ | ⟨-, i, rest, -, rfl⟩
  · simp [idleStep_bus] at h
  · simp at h
  · simp [haltStep, State.readOf] at h
  · rw [effect_bus, List.mem_append] at h
    have hfetch : .write p w ∉ (s.afterFetch i.length).bus := by simp [State.afterFetch]
    exact effect_read_of_write_mem (h.resolve_left hfetch)

/-- Settles O58: a fetch returns the byte in the cell at PC. -/
theorem aStoreIsSeenByTheNextFetch : Obligations.AStoreIsSeenByTheNextFetch := by
  intro s t p w hstep h
  have hread := step_read_of_write_mem hstep h
  exact ⟨hread, (State.instrByte_zero _).trans hread⟩

end Sys2Proof
end

section
/-!
PROOFS. The decoder and the encoder (spec/30_encoding.md R80 to R92): a list of bytes decodes exactly when it begins with
the opcode byte of a row and the operand bytes of that row's format.
-/
namespace Sys2Proof

/-- The operand bytes that a format takes, and the form that it makes of them (R81, R82, R83). -/
inductive Format.Makes : Format → List Byte → Instr → Prop where
  | f1 (form : Instr) : Makes (.f1 form) [] form
  | f2 (form : Byte → Instr) (d8 : Byte) : Makes (.f2 form) [d8] (form d8)
  | f3 (form : Byte → Byte → Instr) (lo8 hi8 : Byte) : Makes (.f3 form) [lo8, hi8] (form lo8 hi8)

/-- The decoder reads an opcode byte, then the operand bytes of the format in its row, and leaves what follows. -/
theorem decode_eq_ok_iff {bytes rest : List Byte} {i : Instr} :
    decode bytes = .ok (i, rest) ↔
      ∃ op f ops, decodeOpcode op = some f ∧ f.Makes ops i ∧ bytes = op :: (ops ++ rest) := by
  constructor
  · intro h
    cases bytes with
    | nil => simp [decode] at h
    | cons op tail =>
      cases hop : decodeOpcode op with
      | none => simp [decode, hop] at h
      | some f =>
        cases f with
        | f1 form =>
          simp only [decode, hop, Except.ok.injEq, Prod.mk.injEq] at h
          obtain ⟨rfl, rfl⟩ := h
          exact ⟨op, _, _, hop, .f1 _, rfl⟩
        | f2 form =>
          rcases tail with _ | ⟨d8, tail⟩ <;> simp only [decode, hop, Except.ok.injEq, Prod.mk.injEq, reduceCtorEq] at h
          obtain ⟨rfl, rfl⟩ := h
          exact ⟨op, _, _, hop, .f2 form d8, rfl⟩
        | f3 form =>
          rcases tail with _ | ⟨lo8, _ | ⟨hi8, tail⟩⟩ <;>
            simp only [decode, hop, Except.ok.injEq, Prod.mk.injEq, reduceCtorEq] at h
          obtain ⟨rfl, rfl⟩ := h
          exact ⟨op, _, _, hop, .f3 form lo8 hi8, rfl⟩
  · rintro ⟨op, f, ops, hop, hmakes, rfl⟩
    cases hmakes <;> simp [decode, hop]

/-- What a row makes of its operand bytes has the row's opcode byte and those operands. -/
theorem encode_of_makes {op : Byte} {f : Format} {ops : List Byte} {i : Instr} (hop : decodeOpcode op = some f)
    (hmakes : f.Makes ops i) : encode i = op :: ops := by
  have hrow := rowWf_of_decodeOpcode hop
  cases hmakes with
  | f1 form =>
    obtain ⟨hopcode, hoperands, -⟩ := hrow
    rw [encode, hopcode, hoperands]
  | f2 form d8 =>
    obtain ⟨hopcode, hoperands, -⟩ := hrow d8
    rw [encode, hopcode, hoperands]
  | f3 form lo8 hi8 =>
    obtain ⟨hopcode, hoperands, -⟩ := hrow lo8 hi8
    rw [encode, hopcode, hoperands]

/-- Every form stands in the row of its opcode byte. -/
theorem Instr.exists_row (i : Instr) : ∃ f, decodeOpcode i.opcode = some f ∧ f.Makes i.operands i := by
  cases i <;> exact ⟨_, rfl, by constructor⟩

theorem decode_encode (i : Instr) (rest : List Byte) : decode (encode i ++ rest) = .ok (i, rest) := by
  obtain ⟨f, hop, hmakes⟩ := i.exists_row
  exact decode_eq_ok_iff.mpr ⟨i.opcode, f, i.operands, hop, hmakes, rfl⟩

/-- Settles O1: a form's row makes the form of its operands, and every form is one of the table (so `wellFormed` is not
used). -/
theorem decodeOfEncodeIsIdentity : Obligations.DecodeOfEncodeIsIdentity :=
  fun i rest _ => decode_encode i rest

/-- Settles O2: the bytes that the decoder takes are those of a row, and a row's form encodes to them. -/
theorem encodeOfDecodeIsIdentity : Obligations.EncodeOfDecodeIsIdentity := by
  intro bytes rest i hdec
  obtain ⟨op, f, ops, hop, hmakes, rfl⟩ := decode_eq_ok_iff.mp hdec
  rw [encode_of_makes hop hmakes, List.cons_append]

/-- Settles O3: each word is, bit for bit, the encoding of its form. -/
theorem writtenWordsDecode : Obligations.WrittenWordsDecode :=
  ⟨decode_encode (.ldaAbsx 0x00 0x05) [], decode_encode (.ldxZpy 0x10) [], decode_encode (.ldyImm 0x01) [],
    decode_encode (.adcAbsy 0xFF 0x04) [], decode_encode (.andZpx 0x10) [], decode_encode .aslAcc [],
    decode_encode (.aslAbsx 0xFF 0x00) [], decode_encode (.jmpAbs 0x20 0x04) [], decode_encode (.jsrAbs 0x10 0x03) [],
    decode_encode .rtsImp []⟩

/-! ## The length -/

/-- The number of operand bytes of a format. -/
def Format.operandBytes : Format → Nat
  | .f1 _ => 0
  | .f2 _ => 1
  | .f3 _ => 2

theorem Format.Makes.operands_length {f : Format} {ops : List Byte} {i : Instr} (h : f.Makes ops i) :
    ops.length = f.operandBytes := by
  cases h <;> rfl

theorem encode_length (i : Instr) : (encode i).length = i.length := by
  cases i <;> rfl

/-- The row that an opcode byte selects has one format, so one number of operand bytes. -/
theorem length_eq_of_opcode_eq {i j : Instr} (h : i.opcode = j.opcode) : i.length = j.length := by
  obtain ⟨f, hf, hmakes⟩ := i.exists_row
  obtain ⟨g, hg, hmakes'⟩ := j.exists_row
  obtain rfl : f = g := by
    rw [h, hg] at hf
    exact (Option.some.inj hf).symm
  calc i.length = i.operands.length + 1 := (encode_length i).symm
    _ = f.operandBytes + 1 := by rw [hmakes.operands_length]
    _ = j.operands.length + 1 := by rw [hmakes'.operands_length]
    _ = j.length := encode_length j

/-- Settles O5: the format of the opcode's row decides the length, and the mode fixes the number of operand bytes. -/
theorem opcodeByteDecidesTheLength : Obligations.OpcodeByteDecidesTheLength := by
  intro i j
  refine ⟨length_eq_of_opcode_eq, encode_length i, ?_⟩
  cases hmode : i.mode <;> simp [Instr.length, hmode, Mode.operandBytes]

/-! ## The bytes that are no opcode -/

theorem decode_of_unrecognized {op : Byte} (rest : List Byte) (h : (decodeOpcode op).isNone = true) :
    decode (op :: rest) = .error (.unrecognizedOpcode op) := by
  rw [Option.isNone_iff_eq_none] at h
  simp only [decode, h]

theorem lookupOpcode_isNone_iff (op : Byte) (rows : List (Byte × Format)) :
    (lookupOpcode op rows).isNone = true ↔ op.toNat ∉ rows.map (fun row => row.1.toNat) := by
  induction rows with
  | nil => simp [lookupOpcode]
  | cons row rows ih =>
    by_cases heq : row.1 = op
    · simp [lookupOpcode, heq]
    · have hne : op.toNat ≠ row.1.toNat := fun h => heq (BitVec.eq_of_toNat_eq h.symm)
      simp [lookupOpcode, heq, ih, hne]

/-- The 36 opcode bytes of R86, in the order of the table's rows. -/
def opcodeBytes : List Nat := opcodeTable.map (fun row => row.1.toNat)

theorem decodeOpcode_isNone_iff (op : Byte) : (decodeOpcode op).isNone = true ↔ op.toNat ∉ opcodeBytes :=
  lookupOpcode_isNone_iff op opcodeTable

theorem opcodeBytes_perm :
    opcodeBytes.Perm [0x06, 0x0A, 0x0E, 0x16, 0x1E, 0x20, 0x25, 0x29, 0x2D, 0x35, 0x39, 0x3D, 0x4C, 0x60, 0x65, 0x69, 0x6D,
      0x75, 0x79, 0x7D, 0xA0, 0xA2, 0xA4, 0xA5, 0xA6, 0xA9, 0xAC, 0xAD, 0xAE, 0xB4, 0xB5, 0xB6, 0xB9, 0xBC, 0xBD,
      0xBE] := by
  decide

theorem opcodeBytes_nodup : opcodeBytes.Nodup := by decide

theorem lt_of_mem_opcodeBytes {n : Nat} (h : n ∈ opcodeBytes) : n < 256 := by
  obtain ⟨row, -, rfl⟩ := List.mem_map.mp h
  exact row.1.isLt

/-- Of the 256 byte values all but the 36 distinct opcodes are left. -/
theorem unrecognized_count :
    ((List.range 256).filter (fun n => (decodeOpcode (BitVec.ofNat 8 n)).isNone)).length = 220 := by
  have hopcodes : ((List.range 256).filter (· ∈ opcodeBytes)).Perm opcodeBytes := by
    rw [List.perm_ext_iff_of_nodup (List.nodup_range.filter _) opcodeBytes_nodup]
    intro n
    simpa using lt_of_mem_opcodeBytes
  have hothers : ∀ n ∈ List.range 256, (decodeOpcode (BitVec.ofNat 8 n)).isNone = !decide (n ∈ opcodeBytes) := by
    intro n hn
    have hbyte : (BitVec.ofNat 8 n).toNat = n := Nat.mod_eq_of_lt (List.mem_range.mp hn)
    rw [Bool.eq_iff_iff, decodeOpcode_isNone_iff, hbyte]
    simp
  have hsplit := (List.range 256).length_eq_length_filter_add (· ∈ opcodeBytes)
  rw [← List.filter_congr hothers, hopcodes.length_eq, List.length_range] at hsplit
  have hcount : opcodeBytes.length = 36 := rfl
  omega

/-- Settles O4: the bytes that the lookup does not find are those of no row, and the decoder refuses at once where it finds
none. -/
theorem otherBytesAreUnrecognized : Obligations.OtherBytesAreUnrecognized :=
  ⟨fun op => (decodeOpcode_isNone_iff op).trans (not_congr opcodeBytes_perm.mem_iff), unrecognized_count,
    fun _ rest h => decode_of_unrecognized rest h⟩

end Sys2Proof
end

section
/-!
PROOFS. The operand fields as values (spec/30_encoding.md R85), and the halt at a byte that is no opcode
(spec/60_exceptions.md R212).
-/
namespace Sys2Proof.Machine

theorem zext16_add_toNat (d8 k : Byte) : (zext16 (d8 + k)).toNat = (d8.toNat + k.toNat) % 256 := by
  rw [zext16_toNat, BitVec.toNat_add]

theorem word_add_zext16_toNat (hi8 lo8 k : Byte) :
    (word hi8 lo8 + zext16 k).toNat = (hi8.toNat * 256 + lo8.toNat + k.toNat) % 65536 := by
  rw [BitVec.toNat_add, word_toNat, zext16_toNat]

/-- Settles O13: the zero-page sum is taken in 8 bits before it is widened, the absolute sum in 16. -/
theorem operandFieldsBecomeValues : Obligations.OperandFieldsBecomeValues := by
  intro s d8 lo8 hi8
  exact ⟨rfl, zext16_toNat d8, zext16_add_toNat d8 s.x, zext16_add_toNat d8 s.y, eaAbs_toNat lo8 hi8,
    word_add_zext16_toNat hi8 lo8 s.x, word_add_zext16_toNat hi8 lo8 s.y⟩

/-- Settles O44: the decoder refuses the bytes at PC, so the step is the halt after the one fetch. -/
theorem haltLeavesTheStateOfTheLastInstruction : Obligations.HaltLeavesTheStateOfTheLastInstruction := by
  intro s hit hop
  rw [step_of_undecoded hit (decode_of_unrecognized _ hop), addrOf_succ]
  rfl

end Sys2Proof.Machine
end

section
/-!
PROOFS. JMP (spec/44_control_flow.md R170; the target is the `ABS` operand, spec/40_addressing_modes.md R111).
-/
namespace Sys2Proof.Machine

/-- Extra cycles are counted like a meaning's accesses, and show none on the memory port. -/
theorem extra_eq_counted (op : Operation) (mode : Mode) (crossed : Bool) (s : State) :
    extra op mode crossed s = s.counted [] (Config.extraCycles op mode crossed) := by
  simp [extra, State.counted]

/-- Settles O22: JMP's meaning is the jump and its extra cycles, and the target is read as an integer. -/
theorem jmpSetsThePc : Obligations.JmpSetsThePc := by
  intro s lo8 hi8
  rw [addrOf_abs, exec_eq_effect]
  simp only [Instr.effect, Instr.operation, extra_eq_counted]
  rfl

end Sys2Proof.Machine
end

section
/-!
PROOFS. The operand of a form by the integer formulas of spec/40_addressing_modes.md R101 to R110, and the loads
(spec/41_load.md R120 to R136): the three operations have one equation, in which the operation selects the target.
-/
namespace Sys2Proof
open Machine

theorem Instr.operands_of_imm {i : Instr} (himm : i.mode = .imm) : i.operands = [i.operandByte 0] := by
  cases i with
  | ldaImm | ldxImm | ldyImm | adcImm | andImm => rfl
  | _ => cases himm

/-- The implied form is RTS. -/
theorem Instr.writesPc_of_imp {i : Instr} (himp : i.mode = .imp) : i.writesPc = true := by
  cases i with
  | rtsImp => rfl
  | _ => cases himp

/-- The operand value at the top of the iteration: A in the accumulator mode, the byte of the operand's source in the
others; a control transfer has none. -/
theorem Instr.operandValue_eq (i : Instr) (s : State) :
    i.operandValue s = if i.writesPc then none else some (if i.mode = .acc then s.a else i.sourceByte s) := by
  by_cases hpc : i.writesPc = true
  · simp [Instr.operandValue, hpc]
  · cases hmode : i.mode with
    | imm => simp [Instr.operandValue, Instr.sourceByte, hpc, hmode, Instr.operands_of_imm hmode]
    | acc => simp [Instr.operandValue, hpc, hmode]
    | imp => exact absurd (Instr.writesPc_of_imp hmode) hpc
    | zp | zpx | zpy | abs | absx | absy =>
      simp [Instr.operandValue, Instr.sourceByte, Instr.effectiveAddress_eq, hpc, hmode]

/-- The accumulator mode is ASL's, so the other operations take the byte of their source. -/
theorem Instr.operandValue_eq_sourceByte {i : Instr} (s : State) (hpc : i.writesPc = false) (hasl : i.operation ≠ .asl) :
    i.operandValue s = some (i.sourceByte s) := by
  have hacc : i.mode ≠ .acc := by
    intro hmode
    have hmodes := i.mode_mem_modes
    cases hop : i.operation <;> simp [hop, hmode, Operation.modes] at hmodes hasl
  simp [Instr.operandValue_eq, hpc, hacc]

/-- The carry out of the low byte is the page crossing that the meaning passes to `Extra`. -/
theorem Instr.crossesPage_eq (i : Instr) (s : State) : i.crossesPage s = i.crossing s := by
  cases i with
  | ldaAbsx lo8 hi8 | ldyAbsx lo8 hi8 | adcAbsx lo8 hi8 | andAbsx lo8 hi8 | aslAbsx lo8 hi8 =>
    exact (pageCrossed_eq lo8 hi8 s.x).symm
  | ldaAbsy lo8 hi8 | ldxAbsy lo8 hi8 | adcAbsy lo8 hi8 | andAbsy lo8 hi8 => exact (pageCrossed_eq lo8 hi8 s.y).symm
  | _ => rfl

theorem Instr.sourceAccesses_length (i : Instr) (s : State) :
    (i.sourceAccesses s).length = if i.mode = .imm then 0 else 1 := by
  by_cases himm : i.mode = .imm <;> simp [Instr.sourceAccesses, himm]

/-- R120: the state after a load. The register that the operation names becomes the operand, and Z and N follow it. -/
def Instr.loaded (i : Instr) (s : State) : State :=
  { (s.counted (i.sourceAccesses s) (Config.extraCycles i.operation i.mode (i.crossing s))).flagged (i.sourceByte s) with
    a := if i.operation = .lda then i.sourceByte s else s.a
    x := if i.operation = .ldx then i.sourceByte s else s.x
    y := if i.operation = .ldy then i.sourceByte s else s.y }

theorem effect_eq_loaded {i : Instr} (hload : i.operation = .lda ∨ i.operation = .ldx ∨ i.operation = .ldy) (s : State) :
    i.effect s = i.loaded s := by
  rcases hload with hop | hop | hop <;>
    simp [Instr.effect, Instr.loaded, hop, Instr.operand_eq, loadA_eq, loadX_eq, loadY_eq, State.counted,
      ← setZN_eq_flagged, State.setZN]

theorem exec_eq_loaded {i : Instr} (hload : i.operation = .lda ∨ i.operation = .ldx ∨ i.operation = .ldy) (s : State) :
    exec i s = .next (i.loaded s) := by
  rw [exec_eq_effect, effect_eq_loaded hload]

/-- Settles O14: the equation of a load in LDA's six modes, the addresses read as integers. -/
theorem ldaLoadsTheOperand : Obligations.LdaLoadsTheOperand := by
  intro s d8 lo8 hi8
  have hlda (i : Instr) (hop : i.operation = .lda) := exec_eq_loaded (.inl hop) s
  simp only [addrOf_zp, addrOf_zp_indexed, addrOf_abs, addrOf_abs_indexed, ← pageCrossed_eq lo8 hi8]
  exact ⟨hlda _ rfl, hlda _ rfl, hlda _ rfl, hlda _ rfl, hlda _ rfl, hlda _ rfl⟩

/-- Settles O15: the equation of a load in LDX's five modes, the addresses read as integers. -/
theorem ldxLoadsTheOperand : Obligations.LdxLoadsTheOperand := by
  intro s d8 lo8 hi8
  have hldx (i : Instr) (hop : i.operation = .ldx) := exec_eq_loaded (.inr (.inl hop)) s
  simp only [addrOf_zp, addrOf_zp_indexed, addrOf_abs, addrOf_abs_indexed, ← pageCrossed_eq lo8 hi8]
  exact ⟨hldx _ rfl, hldx _ rfl, hldx _ rfl, hldx _ rfl, hldx _ rfl⟩

/-- Settles O16: the equation of a load in LDY's five modes, the addresses read as integers. -/
theorem ldyLoadsTheOperand : Obligations.LdyLoadsTheOperand := by
  intro s d8 lo8 hi8
  have hldy (i : Instr) (hop : i.operation = .ldy) := exec_eq_loaded (.inr (.inr hop)) s
  simp only [addrOf_zp, addrOf_zp_indexed, addrOf_abs, addrOf_abs_indexed, ← pageCrossed_eq lo8 hi8]
  exact ⟨hldy _ rfl, hldy _ rfl, hldy _ rfl, hldy _ rfl, hldy _ rfl⟩

/-- Settles O26: the fetch moves PC and counts the instruction's bytes, and the equation of a load gives the rest. -/
theorem loadsMeetTheirContract : Obligations.LoadsMeetTheirContract := by
  intro s i rest hit hdec hload
  have hvalue : i.operandValue s = some (i.sourceByte s) := by
    rcases hload with hop | hop | hop <;>
      exact Instr.operandValue_eq_sourceByte s (by simp [Instr.writesPc, hop]) (by simp [hop])
  refine ⟨_, _, hvalue, (step_of_decoded hit hdec).trans (exec_eq_loaded hload _), ?_⟩
  rw [addrOf_toNat_add, Instr.crossesPage_eq, ← i.sourceAccesses_length (s.afterFetch i.length)]
  rfl

/-- Settles O31: the equation of a load names the only elements it writes, the target by its operation. -/
theorem loadsLeaveTheRestUnchanged : Obligations.LoadsLeaveTheRestUnchanged := by
  intro i s t hload h
  obtain rfl := (eq_effect_of_exec h).trans (effect_eq_loaded hload s)
  exact ⟨fun hne => if_neg hne, fun hne => if_neg hne, fun hne => if_neg hne, rfl, rfl, rfl, rfl, rfl, rfl, rfl, rfl, rfl,
    rfl, fun _ => rfl⟩

end Sys2Proof
end

section
/-!
PROOFS. ADC and AND (spec/42_arithmetic_logic.md R140 to R153): one equation for each of the two operations, on the operand
that the form's mode selects; and the arithmetic reading of ADC's carry and overflow.
-/
namespace Sys2Proof.Machine

theorem adcResult_toNat (a op : Byte) (c : Bool) :
    (adcResult a op c).toNat = (a.toNat + op.toNat + (if c then 1 else 0)) % 256 := by
  simp [adcResult_eq]

/-- The sign rule of R140: operands of one sign and a result of the other mean that the signed sum leaves a byte's range. -/
theorem adcOverflow_iff (a op : Byte) (c : Bool) :
    adcOverflow a op c = true ↔
      a.toInt + op.toInt + (if c then 1 else 0) < -128 ∨ 127 < a.toInt + op.toInt + (if c then 1 else 0) := by
  have haLt := a.isLt
  have hopLt := op.isLt
  rw [adcOverflow_eq, decide_eq_true_eq, adcResult_toNat, BitVec.toInt_eq_toNat_cond, BitVec.toInt_eq_toNat_cond]
  cases c <;> simp only [Bool.false_eq_true, if_true, if_false] <;> omega

/-- The new A agrees with the signed sum modulo 256, so without overflow it reads as that sum. -/
theorem adcResult_toInt (a op : Byte) (c : Bool) (hv : adcOverflow a op c = false) :
    (adcResult a op c).toInt = a.toInt + op.toInt + (if c then 1 else 0) := by
  have haLt := a.isLt
  have hopLt := op.isLt
  have hrange := (adcOverflow_iff a op c).not.mp (Bool.eq_false_iff.mp hv)
  rw [BitVec.toInt_eq_toNat_cond a, BitVec.toInt_eq_toNat_cond op] at hrange ⊢
  rw [BitVec.toInt_eq_toNat_cond, adcResult_toNat]
  cases c <;> simp only [Bool.false_eq_true, if_true, if_false] at hrange ⊢ <;> omega

/-- Settles O18: bit 8 of the sum is the carry out of a byte, and the sign rule is the signed overflow. -/
theorem adcFlagsReadTheSums : Obligations.AdcFlagsReadTheSums := by
  intro a op c
  have hcarry : adcCarry a op c = true ↔ 255 < a.toNat + op.toNat + (if c then 1 else 0) := by
    rw [adcCarry_eq, decide_eq_true_eq, Nat.lt_iff_add_one_le]
  exact ⟨adcResult_toNat a op c, hcarry, adcOverflow_iff a op c, adcResult_toInt a op c⟩

end Sys2Proof.Machine

namespace Sys2Proof
open Machine

/-- R140: the state after ADC on the operand that the form selects. -/
def Instr.added (i : Instr) (s : State) : State :=
  let op := i.sourceByte s
  let res := adcResult s.a op s.c
  { (s.counted (i.sourceAccesses s) (Config.extraCycles .adc i.mode (i.crossing s))).flagged res with
    a := res
    c := adcCarry s.a op s.c
    v := adcOverflow s.a op s.c }

/-- R147: the state after AND on the operand that the form selects. -/
def Instr.masked (i : Instr) (s : State) : State :=
  let res := s.a &&& i.sourceByte s
  { (s.counted (i.sourceAccesses s) (Config.extraCycles .and i.mode (i.crossing s))).flagged res with a := res }

theorem exec_eq_added {i : Instr} (hadc : i.operation = .adc) (s : State) : exec i s = .next (i.added s) := by
  rw [exec_eq_effect]
  simp [Instr.effect, Instr.added, hadc, Instr.operand_eq, addWithCarry_eq, State.counted, ← setZN_eq_flagged, State.setZN]

theorem exec_eq_masked {i : Instr} (hand : i.operation = .and) (s : State) : exec i s = .next (i.masked s) := by
  rw [exec_eq_effect]
  simp [Instr.effect, Instr.masked, hand, Instr.operand_eq, bitwiseAnd_eq, State.counted, ← setZN_eq_flagged, State.setZN]

/-- Settles O17: the equation of ADC in its six modes, the addresses, the sum and the flags read as integers. -/
theorem adcAddsWithCarry : Obligations.AdcAddsWithCarry := by
  intro s d8 lo8 hi8
  have hadc (i : Instr) (hop : i.operation = .adc) := exec_eq_added hop s
  simp only [addrOf_zp, addrOf_zp_indexed, addrOf_abs, addrOf_abs_indexed, ← pageCrossed_eq lo8 hi8, ← adcResult_eq,
    ← adcCarry_eq, ← adcOverflow_eq]
  exact ⟨hadc _ rfl, hadc _ rfl, hadc _ rfl, hadc _ rfl, hadc _ rfl, hadc _ rfl⟩

/-- Settles O19: the equation of AND in its six modes, the addresses read as integers. -/
theorem andMasksTheAccumulator : Obligations.AndMasksTheAccumulator := by
  intro s d8 lo8 hi8
  have hand (i : Instr) (hop : i.operation = .and) := exec_eq_masked hop s
  simp only [addrOf_zp, addrOf_zp_indexed, addrOf_abs, addrOf_abs_indexed, ← pageCrossed_eq lo8 hi8]
  exact ⟨hand _ rfl, hand _ rfl, hand _ rfl, hand _ rfl, hand _ rfl, hand _ rfl⟩

/-- Settles O27: the fetch moves PC and counts the instruction's bytes, and the equation of ADC gives the rest. -/
theorem adcMeetsItsContract : Obligations.AdcMeetsItsContract := by
  intro s i rest hit hdec hop
  have hvalue := Instr.operandValue_eq_sourceByte (i := i) s (by simp [Instr.writesPc, hop]) (by simp [hop])
  refine ⟨_, adcResult s.a (i.sourceByte s) s.c, _, hvalue, (step_of_decoded hit hdec).trans (exec_eq_added hop _),
    adcResult_toNat _ _ _, ?_⟩
  rw [addrOf_toNat_add, Instr.crossesPage_eq, ← i.sourceAccesses_length (s.afterFetch i.length), ← adcCarry_eq,
    ← adcOverflow_eq]
  rfl

/-- Settles O28: the fetch moves PC and counts the instruction's bytes, and the equation of AND gives the rest. -/
theorem andMeetsItsContract : Obligations.AndMeetsItsContract := by
  intro s i rest hit hdec hop
  have hvalue := Instr.operandValue_eq_sourceByte (i := i) s (by simp [Instr.writesPc, hop]) (by simp [hop])
  refine ⟨_, s.a &&& i.sourceByte s, _, hvalue, (step_of_decoded hit hdec).trans (exec_eq_masked hop _),
    fun _ => BitVec.getLsbD_and, ?_⟩
  rw [addrOf_toNat_add, Instr.crossesPage_eq, ← i.sourceAccesses_length (s.afterFetch i.length)]
  rfl

/-- ADC, AND and ASL A write none of X, Y, SP and PC, only ADC of the three writes V, and AND does not write C. -/
theorem Instr.accumulator_writes {i : Instr} (hi : i.operation = .adc ∨ i.operation = .and ∨ i = .aslAcc) :
    i.writesX = false ∧ i.writesY = false ∧ i.writesSp = false ∧ i.writesPc = false ∧
    (i.operation = .and → i.writesC = false) ∧ (i.operation ≠ .adc → i.writesV = false) ∧ ∀ s, i.stores s = [] := by
  rcases hi with hop | hop | rfl
  · simp [Instr.writesX, Instr.writesY, Instr.writesSp, Instr.writesPc, Instr.stores_eq, hop]
  · simp [Instr.writesX, Instr.writesY, Instr.writesSp, Instr.writesPc, Instr.writesC, Instr.writesV, Instr.stores_eq, hop]
  · exact ⟨rfl, rfl, rfl, rfl, nofun, fun _ => rfl, fun _ => rfl⟩

/-- Settles O32, by the frame of the form's operation and the cells it stores to, of which there are none. -/
theorem accumulatorFormsLeaveTheRestUnchanged : Obligations.AccumulatorFormsLeaveTheRestUnchanged := by
  intro i s t hi h
  obtain rfl := eq_effect_of_exec h
  obtain ⟨hx, hy, hsp, hpc, hc, hv, hstores⟩ := Instr.accumulator_writes hi
  have hframe := effect_frame i s
  exact ⟨hframe.keepsX hx, hframe.keepsY hy, hframe.keepsSp hsp, hframe.keepsPc hpc, hframe.keepsI, hframe.keepsD,
    hframe.keepsB, fun hand => hframe.keepsC (hc hand), fun hne => hframe.keepsV (hv hne), hframe.keepsHalted,
    hframe.keepsHaltOpcode, hframe.keepsRunning, fun p => effect_read_of_not_mem_stores i s (by simp [hstores])⟩

end Sys2Proof
end

section
/-!
PROOFS. ASL (spec/43_shift.md R160 to R165): its five forms have one equation, in which the mode selects where the shifted
byte comes from and goes back to.
-/
namespace Sys2Proof.Machine

theorem aslResult_toNat (w : Byte) : (aslResult w).toNat = 2 * w.toNat % 256 := by
  simp [aslResult_eq]

theorem aslCarry_eq (w : Byte) : aslCarry w = decide (128 ≤ w.toNat) :=
  bit7_eq_decide w

end Sys2Proof.Machine

namespace Sys2Proof
open Machine

/-- The byte that ASL shifts: A in the accumulator mode (spec/40_addressing_modes.md R108), the cell at the effective
address in the memory modes. -/
def Instr.shiftSource (i : Instr) (s : State) : Byte :=
  if i.mode = .acc then s.a else s.mem.read (i.address s)

/-- R160: the state after ASL. The shifted byte goes back to where it came from. -/
def Instr.shifted (i : Instr) (s : State) : State :=
  let old := i.shiftSource s
  let res := aslResult old
  { (s.counted (i.meaningAccesses s) (Config.extraCycles .asl i.mode (i.crossing s))).flagged res with
    a := if i.mode = .acc then res else s.a
    c := aslCarry old
    mem := if i.mode = .acc then s.mem else s.mem.write (i.address s) res }

theorem Instr.shifted_read_of_memory {i : Instr} (hmem : i.mode ≠ .acc) (s : State) (p : Addr) :
    (i.shifted s).mem.read p = if p = i.address s then aslResult (s.mem.read (i.address s)) else s.mem.read p := by
  simp [Instr.shifted, Instr.shiftSource, hmem, Memory.read_write]

variable {i : Instr} (hasl : i.operation = .asl) (s : State)
include hasl

/-- The two meanings of ASL, on A and on a memory cell, are the one equation. -/
theorem effect_eq_shifted : i.effect s = i.shifted s := by
  by_cases hacc : i.mode = .acc
  · simp [Instr.effect, Instr.shifted, Instr.shiftSource, Instr.meaningAccesses, Instr.crossing, hasl, hacc,
      shiftAccumulator, extra_eq_counted, ← setZN_eq_flagged, State.setZN, State.setA, State.setC, State.counted]
  · simp [Instr.effect, Instr.shifted, Instr.shiftSource, Instr.meaningAccesses, hasl, hacc, shiftMemory_eq, State.readOf,
      ← setZN_eq_flagged, State.setZN, State.counted]

theorem exec_eq_shifted : exec i s = .next (i.shifted s) := by
  rw [exec_eq_effect, effect_eq_shifted hasl]

/-- ASL has no immediate and no implied form. -/
theorem Instr.asl_mode_ne : i.mode ≠ .imm ∧ i.mode ≠ .imp := by
  have hmodes := i.mode_mem_modes
  constructor <;> intro hmode <;> simp [hasl, hmode, Operation.modes] at hmodes

theorem Instr.asl_effectiveAddress (hmem : i.mode ≠ .acc) : i.effectiveAddress s = some (i.address s) := by
  obtain ⟨himm, himp⟩ := Instr.asl_mode_ne hasl
  simp [Instr.effectiveAddress_eq, himm, hmem, himp]

theorem Instr.asl_operandValue : i.operandValue s = some (i.shiftSource s) := by
  obtain ⟨himm, -⟩ := Instr.asl_mode_ne hasl
  simp [Instr.operandValue_eq, Instr.shiftSource, Instr.sourceByte, Instr.writesPc, hasl, himm]

/-- One read and one write in the memory modes (D12). -/
theorem Instr.asl_accesses_length : (i.meaningAccesses s).length = if i.mode = .acc then 0 else 2 := by
  by_cases hacc : i.mode = .acc <;> simp [Instr.meaningAccesses, hasl, hacc]

end Sys2Proof

namespace Sys2Proof
open Machine

/-- Settles O20: the equation of ASL in its accumulator mode, the result and the carry read as integers. -/
theorem aslShiftsTheAccumulator : Obligations.AslShiftsTheAccumulator := by
  intro s
  simp only [← aslResult_eq, ← aslCarry_eq]
  exact exec_eq_shifted (i := .aslAcc) rfl s

/-- Settles O21: the equation of ASL in its four memory modes, the addresses, the result and the carry read as integers. -/
theorem aslShiftsTheMemoryCell : Obligations.AslShiftsTheMemoryCell := by
  intro s d8 lo8 hi8
  have hasl (i : Instr) (hop : i.operation = .asl) := exec_eq_shifted hop s
  simp only [addrOf_zp, addrOf_zp_indexed, addrOf_abs, addrOf_abs_indexed, ← pageCrossed_eq lo8 hi8, ← aslResult_eq,
    ← aslCarry_eq]
  exact ⟨hasl _ rfl, hasl _ rfl, hasl _ rfl, hasl _ rfl⟩

/-- Settles O29: the fetch moves PC and counts the instruction's bytes, and the equation of ASL gives the rest; its memory
is the old one in the accumulator mode, and differs from it in one cell in the others. -/
theorem aslMeetsItsContract : Obligations.AslMeetsItsContract := by
  intro s i rest hit hdec hop
  refine ⟨_, aslResult (i.shiftSource s), _, Instr.asl_operandValue hop s,
    (step_of_decoded hit hdec).trans (exec_eq_shifted hop _), aslResult_toNat _, fun hacc p => ?_,
    fun hmem => ⟨i.address s, Instr.asl_effectiveAddress hop s hmem, fun p => ?_⟩, ?_⟩
  · simp [Instr.shifted, hacc]
  · rw [Instr.shiftSource, if_neg hmem]
    exact Instr.shifted_read_of_memory hmem _ p
  · rw [addrOf_toNat_add, Instr.crossesPage_eq, ← Instr.asl_accesses_length hop (s.afterFetch i.length), ← aslCarry_eq]
    rfl

/-- Settles O33: the equation of ASL names the only elements it writes, and the one address it stores to is that of its
read. -/
theorem aslOnMemoryLeavesTheRestUnchanged : Obligations.AslOnMemoryLeavesTheRestUnchanged := by
  intro i s t hop hmem h
  obtain rfl := (eq_effect_of_exec h).trans (effect_eq_shifted hop s)
  have hstores : i.stores s = [i.address s] := by simp [Instr.stores_eq, hop, hmem]
  refine ⟨if_neg hmem, rfl, rfl, rfl, rfl, rfl, rfl, rfl, rfl, rfl, rfl, rfl, ⟨_, hstores⟩, fun p ea hea => ?_⟩
  obtain rfl : i.address s = ea := List.singleton_inj.mp (hstores.symm.trans hea)
  rw [← aslResult_eq]
  exact Instr.shifted_read_of_memory hmem s p

end Sys2Proof
end

section
/-!
PROOFS. Many words on the stack (spec/20_memory.md R60, spec/44_control_flow.md R173): the word that a push leaves below
each SP, and how pushes and pulls nest.
-/
namespace Sys2Proof.Machine

/-- The word that lies where `PushWord` with SP = `p` puts its two bytes. -/
def State.stackWord (s : State) (p : Byte) : Addr := word (s.mem.read (stackAddr p)) (s.mem.read (stackAddr (p - 1)))

@[simp] theorem pushWord_sp (w : Addr) (s : State) : (pushWord w s).sp = s.sp - 1 - 1 := rfl

@[simp] theorem pullWord_sp (s : State) : (pullWord s).2.sp = s.sp + 1 + 1 := rfl

theorem pullWord_fst (s : State) : (pullWord s).1 = s.stackWord (s.sp + 1 + 1) := by
  rw [State.stackWord, BitVec.add_sub_cancel]
  rfl

theorem pushWord_stackWord_self (w : Addr) (s : State) : (pushWord w s).stackWord s.sp = w := by
  rw [State.stackWord, pushWord_read_top, pushWord_read_below, word_hiByte_loByte]

/-- A push leaves every word that lies clear of its own two cells: 2 to 254 cells down from SP, counted round the page. -/
theorem pushWord_stackWord_of_clear {s : State} {p : Byte} (hlow : 2 ≤ (s.sp - p).toNat) (hhigh : (s.sp - p).toNat ≤ 254)
    (w : Addr) : (pushWord w s).stackWord p = s.stackWord p := by
  have hclear (q : Byte) (htop : q ≠ s.sp) (hbelow : q ≠ s.sp - 1) :
      (pushWord w s).mem.read (stackAddr q) = s.mem.read (stackAddr q) :=
    pushWord_read_ne (fun h => htop (stackAddr_injective h)) (fun h => hbelow (stackAddr_injective h))
  rw [State.stackWord, hclear p (by bv_omega) (by bv_omega), hclear (p - 1) (by bv_omega) (by bv_omega), State.stackWord]

/-- The words pushed one after the other, the head of the list first. -/
def pushWords (ws : List Addr) (s : State) : State := ws.foldl (fun u w => pushWord w u) s

/-- The state after `k` pulled words. -/
def pullWords (k : Nat) (s : State) : State := (List.range k).foldl (fun u _ => (pullWord u).2) s

theorem pushWords_cons (w : Addr) (ws : List Addr) (s : State) : pushWords (w :: ws) s = pushWords ws (pushWord w s) := rfl

theorem pullWords_succ (k : Nat) (s : State) : pullWords (k + 1) s = (pullWord (pullWords k s)).2 := by
  simp only [pullWords, List.range_succ, List.foldl_append, List.foldl_cons, List.foldl_nil]

theorem pushWords_sp (ws : List Addr) (s : State) : (pushWords ws s).sp = s.sp - BitVec.ofNat 8 (2 * ws.length) := by
  induction ws generalizing s with
  | nil => exact (BitVec.sub_zero s.sp).symm
  | cons w ws ih =>
    rw [pushWords_cons, ih, pushWord_sp, List.length_cons]
    bv_omega

theorem pullWords_sp (k : Nat) (s : State) : (pullWords k s).sp = s.sp + BitVec.ofNat 8 (2 * k) := by
  induction k with
  | zero => exact (BitVec.add_zero s.sp).symm
  | succ k ih =>
    rw [pullWords_succ, pullWord_sp, ih]
    bv_omega

theorem pullWords_mem (k : Nat) (s : State) : (pullWords k s).mem = s.mem := by
  induction k with
  | zero => rfl
  | succ k ih => rw [pullWords_succ, pullWord_mem, ih]

theorem pushWords_stackWord_of_clear {ws : List Addr} {s : State} {p : Byte} (hlow : 2 * ws.length ≤ (s.sp - p).toNat)
    (hhigh : (s.sp - p).toNat ≤ 254) : (pushWords ws s).stackWord p = s.stackWord p := by
  induction ws generalizing s with
  | nil => rfl
  | cons w ws ih =>
    rw [List.length_cons] at hlow
    have hdown : ((pushWord w s).sp - p).toNat = (s.sp - p).toNat - 2 := by
      rw [pushWord_sp]
      bv_omega
    rw [pushWords_cons, ih (by omega) (by omega), pushWord_stackWord_of_clear (by omega) hhigh]

/-- Up to 128 words fill the page without overlap, so word `k` still lies where its push put it. -/
theorem pushWords_stackWord {ws : List Addr} (hlen : ws.length ≤ 128) (s : State) {k : Nat} (hk : k < ws.length) :
    (pushWords ws s).stackWord (s.sp - BitVec.ofNat 8 (2 * k)) = ws[k] := by
  induction ws generalizing s k with
  | nil => cases hk
  | cons w ws ih =>
    rw [List.length_cons] at hlen hk
    rw [pushWords_cons]
    cases k with
    | zero =>
      have hdepth : ((pushWord w s).sp - s.sp).toNat = 254 := by
        rw [pushWord_sp]
        bv_omega
      rw [Nat.mul_zero, BitVec.sub_zero, pushWords_stackWord_of_clear (by omega) hdepth.le, pushWord_stackWord_self]
      rfl
    | succ k =>
      have hdown : s.sp - BitVec.ofNat 8 (2 * (k + 1)) = (pushWord w s).sp - BitVec.ofNat 8 (2 * k) := by
        rw [pushWord_sp]
        bv_omega
      rw [hdown, ih (by omega) _ (by omega)]
      rfl

/-- After `k` of the words are pulled, the next pull goes to word `k` from the end. -/
theorem pullWord_pullWords_pushWords {ws : List Addr} (hlen : ws.length ≤ 128) (s : State) {k : Nat} (hk : k < ws.length) :
    (pullWord (pullWords k (pushWords ws s))).1 = ws[ws.length - 1 - k] := by
  have hsp : (pullWords k (pushWords ws s)).sp + 1 + 1 = s.sp - BitVec.ofNat 8 (2 * (ws.length - 1 - k)) := by
    have hlast : 2 * ws.length = 2 * (ws.length - 1 - k) + 2 * k + 1 + 1 := by omega
    rw [pullWords_sp, pushWords_sp, hlast]
    simp only [BitVec.ofNat_add]
    abel
  rw [pullWord_fst, hsp, State.stackWord, pullWords_mem]
  exact pushWords_stackWord hlen s (by omega)

/-- Settles O12: the words lie in the page without overlap, and after 128 of them SP has gone round to where it was. -/
theorem stackKeeps128ReturnAddresses : Obligations.StackKeeps128ReturnAddresses := by
  intro s ws hlen
  refine ⟨fun k hk => ?_, ?_, fun hfull w => ?_⟩
  · rw [List.getElem?_eq_getElem (by rwa [List.length_reverse]), List.getElem_reverse]
    exact congrArg some (pullWord_pullWords_pushWords hlen s hk).symm
  · exact (pullWords_sp ws.length (pushWords ws s)).trans (by rw [pushWords_sp, BitVec.sub_add_cancel])
  · have hround : (pushWords ws s).sp = s.sp := by
      rw [pushWords_sp, hfull]
      exact BitVec.sub_zero s.sp
    rw [← hround]
    exact ⟨pushWord_read_top w _, pushWord_read_below w _⟩

end Sys2Proof.Machine
end

section
/-!
PROOFS. JMP, JSR and RTS from the top of an iteration (spec/44_control_flow.md R170 to R173).
-/
namespace Sys2Proof
open Machine

/-- A control transfer writes none of A, X, Y and the flags, JMP does not write SP, and only JSR stores. -/
theorem Instr.controlTransfer_writes {i : Instr} (hpc : i.writesPc = true) :
    i.writesA = false ∧ i.writesX = false ∧ i.writesY = false ∧ (i.operation = .jmp → i.writesSp = false) ∧
    i.writesC = false ∧ i.writesV = false ∧ i.writesZN = false ∧
    ∀ s, i.stores s = if i.operation = .jsr then [stackAddr s.sp, stackAddr (s.sp - 1)] else [] := by
  have hop : i.operation = .jmp ∨ i.operation = .jsr ∨ i.operation = .rts := by
    simpa [Instr.writesPc, or_assoc] using hpc
  rcases hop with hop | hop | hop <;>
    simp [Instr.writesA_eq, Instr.writesX, Instr.writesY, Instr.writesSp, Instr.writesC, Instr.writesV, Instr.writesZN,
      Instr.writesPc, Instr.stores_eq, hop]

/-- Settles O34, by the frame of the form's operation and the cells it stores to. -/
theorem controlTransfersLeaveTheRestUnchanged : Obligations.ControlTransfersLeaveTheRestUnchanged := by
  intro i s t hpc h
  obtain rfl := eq_effect_of_exec h
  obtain ⟨ha, hx, hy, hsp, hc, hv, hzn, hstores⟩ := Instr.controlTransfer_writes hpc
  have hframe := effect_frame i s
  obtain ⟨hz, hn⟩ := hframe.keepsZN hzn
  refine ⟨hframe.keepsA ha, hframe.keepsX hx, hframe.keepsY hy, fun hjmp => hframe.keepsSp (hsp hjmp), hframe.keepsC hc,
    hz, hframe.keepsI, hframe.keepsD, hframe.keepsB, hframe.keepsV hv, hn, hframe.keepsHalted, hframe.keepsHaltOpcode,
    hframe.keepsRunning, fun p hp => effect_read_of_not_mem_stores i s ?_⟩
  rw [hstores]
  by_cases hjsr : i.operation = .jsr
  · simpa [hjsr] using hp hjsr
  · simp [hjsr]

variable {s : State} {lo8 hi8 : Byte} {rest : List Byte}

/-- R170, from the opcode's address. -/
theorem step_jmp (hit : s.Iterating) (hdec : decode s.instrBytes = .ok (.jmpAbs lo8 hi8, rest)) :
    ∃ t : State, step s = .next t ∧
      t.arch = { s.arch with pc := word hi8 lo8, cyc := s.cyc + 3 + Config.extraCycles .jmp .abs false } :=
  ⟨_, (step_of_decoded hit hdec).trans (exec_eq_effect _ _), rfl⟩

/-- R171, from the opcode's address; JSR pushes the address of its own last byte. -/
theorem step_jsr (hit : s.Iterating) (hdec : decode s.instrBytes = .ok (.jsrAbs lo8 hi8, rest)) :
    ∃ t : State, step s = .next t ∧ t.mem = (pushWord (s.pc + 2) s).mem ∧
      t.arch = { s.arch with
        pc := word hi8 lo8
        sp := s.sp - 1 - 1
        mem := t.mem
        cyc := s.cyc + 5 + Config.extraCycles .jsr .abs false } := by
  have hlast : s.pc + 3 - 1 = s.pc + 2 := add_sub_assoc s.pc 3 1
  refine ⟨_, (step_of_decoded hit hdec).trans (exec_eq_effect _ _), ?_, rfl⟩
  rw [← hlast]
  rfl

/-- R172, from the opcode's address. -/
theorem step_rts (hit : s.Iterating) (hdec : decode s.instrBytes = .ok (.rtsImp, rest)) :
    ∃ t : State, step s = .next t ∧
      t.arch = { s.arch with
        pc := (pullWord s).1 + 1
        sp := s.sp + 1 + 1
        cyc := s.cyc + 3 + Config.extraCycles .rts .imp false } :=
  ⟨_, (step_of_decoded hit hdec).trans (exec_eq_effect _ _), rfl⟩

/-- Settles O30, from the three steps by the integer readings of the target, of the stack addresses and of SP. -/
theorem controlTransfersMeetTheirContracts : Obligations.ControlTransfersMeetTheirContracts := by
  intro s lo8 hi8 rest hit
  simp only [stack_at, stack_below, stack_above, stack_above_two, sp_add_254, sp_add_2, addrOf_abs]
  refine ⟨step_jmp hit, fun hdec => ?_, fun hdec => ?_⟩
  · have hlast : (s.pc + 2).toNat = (s.pc.toNat + 2) % 65536 := BitVec.toNat_add s.pc 2
    obtain ⟨t, hstep, hmem, harch⟩ := step_jsr hit hdec
    refine ⟨t, hstep, ?_, ?_, fun p htop hbelow => ?_, harch⟩
    · rw [hmem, pushWord_read_top, hiByte_toNat, hlast]
    · rw [hmem, pushWord_read_below, loByte_toNat, hlast]
    · rw [hmem, pushWord_read_ne htop hbelow]
  · rw [← word_toNat, addrOf_succ]
    exact step_rts hit hdec

/-- Settles O55: the return pulls the word that lies where the call pushed its return address. -/
theorem returnResumesAfterTheCall : Obligations.ReturnResumesAfterTheCall := by
  intro s t u lo8 hi8 rest rest' hit hdec hcall hitu hdecu hsp htop hbelow
  obtain ⟨t', hstep, hmem, harch⟩ := step_jsr hit hdec
  obtain rfl : t' = t := Host.Outcome.next.inj (hstep.symm.trans hcall)
  obtain ⟨w, hreturn, harchw⟩ := step_rts hitu hdecu
  have hup : u.sp + 1 + 1 = s.sp := by
    have hdown : t'.sp = s.sp - 1 - 1 := congrArg State.sp harch
    rw [hsp, hdown, BitVec.sub_add_cancel, BitVec.sub_add_cancel]
  have hpulled : (pullWord u).1 = s.pc + 2 := by
    rw [pullWord_fst, hup, State.stackWord, htop, hbelow, hmem]
    exact pushWord_stackWord_self (s.pc + 2) s
  have hpc : w.pc = s.pc + 2 + 1 := by
    rw [← hpulled]
    exact congrArg State.pc harchw
  have hnext : s.pc + 2 + 1 = s.pc + 3 := add_assoc s.pc 2 1
  refine ⟨w, hreturn, ?_, (congrArg State.sp harchw).trans hup⟩
  rw [hpc, hnext]
  exact BitVec.toNat_add s.pc 3

end Sys2Proof
end

section
/-!
PROOFS. The counts of one iteration (spec/46_execution_engine.md R198, R199; spec/70_reset_and_hazards.md R253).
-/
namespace Sys2Proof
open Machine

/-- JMP, JSR and RTS have one mode each, in which no index is added (R199). -/
theorem Instr.controlTransfer_mode_crossing {i : Instr} (hpc : i.writesPc = true) (s : State) :
    i.mode = (if i.operation = .rts then .imp else .abs) ∧ i.crossing s = false := by
  cases i with
  | jmpAbs | jsrAbs | rtsImp => exact ⟨rfl, rfl⟩
  | _ => cases hpc

/-- A meaning counts one cycle for each of its accesses, and the extra cycles of its form. -/
theorem effect_cyc (i : Instr) (s : State) :
    (i.effect s).cyc =
      s.cyc + (i.meaningAccesses s).length + Config.extraCycles i.operation i.mode (i.crossing s) := by
  cases hop : i.operation with
  | lda | ldx | ldy =>
    rw [effect_eq_loaded (by simp [hop])]
    simp [Instr.loaded, Instr.meaningAccesses, hop, State.flagged, State.counted]
  | adc | and =>
    simp [Instr.effect, Instr.meaningAccesses, hop, Instr.operand_eq, addWithCarry_eq, bitwiseAnd_eq, State.counted]
  | asl =>
    rw [effect_eq_shifted hop]
    rfl
  | jmp | jsr | rts =>
    obtain ⟨hmode, hcross⟩ := Instr.controlTransfer_mode_crossing (i := i) (by simp [Instr.writesPc, hop]) s
    simp [Instr.effect, Instr.meaningAccesses, hop, hmode, hcross, pushWord_eq, pullWord_eq]

theorem Instr.one_le_length (i : Instr) : 1 ≤ i.length := Nat.le_add_right 1 _

theorem effect_bus_length (i : Instr) (s : State) :
    (i.effect s).bus.length = s.bus.length + (i.meaningAccesses s).length := by
  rw [effect_bus, List.length_append]

/-- Settles O42: the fetch counts and shows one access for each of the one to three bytes, and the meaning counts each of
its own, which are at most two. -/
theorem cyclesCountTheAccesses : Obligations.CyclesCountTheAccesses := by
  intro s hit
  cases hdec : decode s.instrBytes with
  | error e => exact ⟨_, step_of_undecoded hit hdec, Nat.le_refl 1, Nat.le_add_left 1 4, rfl⟩
  | ok r =>
    obtain ⟨i, rest⟩ := r
    have hlen := effect_bus_length i (s.afterFetch i.length)
    have hadded := effect_bus_length_le i (s.afterFetch i.length)
    have hcyc := effect_cyc i (s.afterFetch i.length)
    have hfetched : (s.afterFetch i.length).cyc = s.cyc + i.length := rfl
    have hcross : i.crossing (s.afterFetch i.length) = i.crossesPage s := (i.crossesPage_eq s).symm
    rw [afterFetch_bus_length] at hlen hadded
    rw [hfetched, hcross] at hcyc
    refine ⟨_, (step_of_decoded hit hdec).trans (exec_eq_effect _ _), ?_, ?_, ?_⟩
    · have hlow := i.one_le_length
      omega
    · have hhigh := i.length_le
      omega
    · dsimp only
      omega

end Sys2Proof
end

section
/-!
PROOFS. The engine around the dispatcher (spec/46_execution_engine.md R190 to R202, R224; spec/70_reset_and_hazards.md R240,
R241): the moves of the host, the end of a cancelled run, and that no meaning takes a sample or an operation of the host.
-/
namespace Sys2Proof
open Machine

variable {s t : State}

/-- An idle machine performs the host's next operation, and the memory port shows nothing. -/
theorem step_of_hostOps_cons {op : HostOp} {ops : List HostOp} (hidle : s.running = false) (hops : s.hostOps = op :: ops) :
    step s = .next (hostDo op { s with hostOps := ops, bus := [] }) := by
  rw [step_of_idle hidle]
  simp only [idleStep, hops]

theorem step_of_hostOps_nil (hidle : s.running = false) (hops : s.hostOps = []) : step s = .next { s with bus := [] } := by
  rw [step_of_idle hidle]
  simp only [idleStep, hops]

/-- No meaning touches the samples of `cancel` to come or what the host will do next. -/
theorem effect_keeps_inputs (i : Instr) (s : State) :
    (i.effect s).cancelIn = s.cancelIn ∧ (i.effect s).hostOps = s.hostOps := by
  cases hop : i.operation with
  | lda | ldx | ldy | adc | and =>
    simp [Instr.effect, hop, Instr.operand_eq, loadA_eq, loadX_eq, loadY_eq, addWithCarry_eq, bitwiseAnd_eq, State.counted]
  | asl =>
    rw [effect_eq_shifted hop]
    exact ⟨rfl, rfl⟩
  | jmp | jsr | rts => simp [Instr.effect, hop, pushWord_eq, pullWord_eq]

/-- While a run is in progress the host's operations wait (D11). -/
theorem step_keeps_hostOps (hrun : s.running = true) (hstep : step s = .next t) : t.hostOps = s.hostOps := by
  rcases step_cases hstep with ⟨hidle, -⟩ | ⟨-, -, rfl⟩ | ⟨-, -, rfl⟩ | ⟨-, i, rest, -, rfl⟩
  · rw [hrun] at hidle
    cases hidle
  · rfl
  · rfl
  · exact (effect_keeps_inputs i _).2

/-- Settles O49: the idle step performs the Reset, and in the other three cases of a step no operation is taken. -/
theorem resetReplacesTheWholeState : Obligations.ResetReplacesTheWholeState :=
  fun _ _ => ⟨step_of_hostOps_cons, fun hrun _ => step_keeps_hostOps hrun⟩

/-- Settles O39: the fetch at the top of an iteration finds what the decoder reads at PC. -/
theorem stepRunsTheDecodedInstruction : Obligations.StepRunsTheDecodedInstruction :=
  fun _ _ _ hit hdec _ => step_of_decoded hit hdec

/-- Settles O45: the sample is looked at before the fetch, and HALTED, kept at 0, makes the result `Cancelled`. -/
theorem cancellationFetchesNothing : Obligations.CancellationFetchesNothing := by
  intro s hrun hcancel
  have hend := step_of_cancelled hrun hcancel
  refine ⟨hend, fun hhalted t hstep => ?_⟩
  obtain rfl : endCancelled s.beginIteration = t := Host.Outcome.next.inj (hend.symm.trans hstep)
  simp [runResult, hrun, hhalted]

/-- Settles O47, by the first element of the host's list: Run, Observe, or none. -/
theorem runStartsAtTheCurrentPc : Obligations.RunStartsAtTheCurrentPc :=
  fun _ _ hidle => ⟨step_of_hostOps_cons hidle, step_of_hostOps_cons hidle, step_of_hostOps_nil hidle⟩

/-- From an iteration top with samples 0 and 1 of `cancel`, one instruction runs and the run ends: its meaning leaves
RUNNING and the second sample as they were. -/
theorem step_then_cancelled {i : Instr} {rest : List Byte} {samples : List Bool} (hrun : s.running = true)
    (hcancel : s.cancelIn = false :: true :: samples) (hdec : decode s.instrBytes = .ok (i, rest))
    (hexec : exec i (s.afterFetch i.length) = .next t) :
    step s = .next t ∧ step t = .next { t with running := false, cancelIn := samples, bus := [] } := by
  have hit : s.Iterating := ⟨hrun, by rw [State.cancelSampled, hcancel]; rfl⟩
  obtain rfl := eq_effect_of_exec hexec
  have hrunning : (i.effect (s.afterFetch i.length)).running = true := (effect_frame i _).keepsRunning.trans hrun
  have hsamples : (i.effect (s.afterFetch i.length)).cancelIn = true :: samples :=
    (effect_keeps_inputs i _).1.trans (congrArg List.tail hcancel)
  refine ⟨(step_of_decoded hit hdec).trans hexec, ?_⟩
  rw [step_of_cancelled hrunning (by rw [State.cancelSampled, hsamples]; rfl)]
  simp only [endCancelled, State.beginIteration, hsamples, List.tail_cons]

/-- Settles O52: the Run starts an iteration with the bytes at PC and the samples as they were. -/
theorem theHostCanSingleStep : Obligations.TheHostCanSingleStep := by
  intro s t i rest ops samples hidle hops hcancel hdec hexec
  exact ⟨_, step_of_hostOps_cons hidle hops,
    step_then_cancelled (s := startRun { s with hostOps := ops, bus := [] }) rfl hcancel hdec hexec⟩

end Sys2Proof
end

section
/-!
PROOFS. The halt on an unrecognized opcode byte (spec/60_exceptions.md R210): which way an iteration goes, and what the host
receives.
-/
namespace Sys2Proof
open Machine

variable {s t : State}

/-- The decoder finds an instruction at PC only where the first byte is an opcode. -/
theorem decodeOpcode_isNone_of_instrBytes {i : Instr} {rest : List Byte} (hdec : decode s.instrBytes = .ok (i, rest)) :
    (decodeOpcode (s.instrByte 0)).isNone = false := by
  obtain ⟨op, f, ops, hop, -, hbytes⟩ := decode_eq_ok_iff.mp hdec
  obtain rfl : s.instrByte 0 = op := (List.cons.inj hbytes).1
  rw [hop]
  rfl

/-- A step that leaves the run in progress delivers no result (R195). -/
theorem runResult_of_running (hrun : t.running = true) : runResult s t = none := by
  simp [runResult, hrun]

/-- The halt ends the run with the byte and the CYC it leaves. -/
theorem runResult_haltStep (hrun : s.running = true) :
    runResult s (haltStep s) = some (.halt (s.instrByte 0) (haltStep s).cyc) := by
  simp [runResult, hrun, haltStep]

/-- Settles O43, by what the decoder finds at PC: an error is the halt, and an instruction's meaning leaves HALTED at 0 and
RUNNING at 1. -/
theorem unrecognizedOpcodeHalts : Obligations.UnrecognizedOpcodeHalts := by
  intro s hit hhalted
  cases hdec : decode s.instrBytes with
  | error e =>
    have hop : (decodeOpcode (s.instrByte 0)).isNone = true := decodeOpcode_isNone_of_decode_error hdec
    exact ⟨haltStep s, step_of_undecoded hit hdec, iff_of_true rfl hop,
      fun _ => ⟨s.instrByte_zero.symm, rfl, runResult_haltStep hit.1⟩, nofun⟩
  | ok r =>
    obtain ⟨i, rest⟩ := r
    have hframe := effect_frame i (s.afterFetch i.length)
    have hkept : (i.effect (s.afterFetch i.length)).halted = false := hframe.keepsHalted.trans hhalted
    have hrun : (i.effect (s.afterFetch i.length)).running = true := hframe.keepsRunning.trans hit.1
    refine ⟨_, (step_of_decoded hit hdec).trans (exec_eq_effect _ _), ?_, ?_, fun _ => ⟨hrun, runResult_of_running hrun⟩⟩
    · rw [hkept, decodeOpcode_isNone_of_instrBytes hdec]
    · rw [hkept]
      exact nofun

end Sys2Proof
end

section
/-!
PROOFS. The first iteration after reset (spec/70_reset_and_hazards.md R242 to R244): the seeded `JMP` takes the run to the
entry address that the host has loaded behind it.
-/
namespace Sys2Proof
open Machine

/-- What the host's load of the entry address and Run leave after reset (R242, R243): the operand bytes of the seeded `JMP`
stand in their cells and the run is started. -/
def resetAndLoaded (lo hi : Byte) : State :=
  { State.reset with mem := (State.reset.mem.write 0xFFFD lo).write 0xFFFE hi, running := true }

/-- The two loaded cells are distinct, so the order of the two Loads does not show. -/
theorem resetAndLoaded_read (lo hi : Byte) (p : Addr) :
    (resetAndLoaded lo hi).mem.read p =
      if p.toNat = 0xFFFD then lo else if p.toNat = 0xFFFE then hi else State.reset.mem.read p := by
  have hlo : p = 0xFFFD ↔ p.toNat = 0xFFFD := BitVec.toNat_inj.symm
  have hhi : p = 0xFFFE ↔ p.toNat = 0xFFFE := BitVec.toNat_inj.symm
  simp only [resetAndLoaded, Memory.read_write, hlo, hhi]
  apply ite_ite_comm
  omega

/-- The bytes at PC are the seed and the entry address, low byte first. -/
theorem decode_resetAndLoaded (lo hi : Byte) :
    decode (resetAndLoaded lo hi).instrBytes = .ok (.jmpAbs lo hi, []) := by
  have hbytes : (resetAndLoaded lo hi).instrBytes = encode (.jmpAbs lo hi) ++ [] := by
    simp only [State.instrBytes, State.instrByte, resetAndLoaded_read]
    rfl
  rw [hbytes, decode_encode]

/-- A Load of the host writes its cell alone (R71). -/
theorem step_load {s : State} {p : Addr} {w : Byte} {ops : List HostOp} (hidle : s.running = false)
    (hops : s.hostOps = .load p w :: ops) : step s = .next { s with mem := s.mem.write p w, hostOps := ops, bus := [] } :=
  step_of_hostOps_cons hidle hops

/-- Two Loads and a Run of the host lead from reset to the start of the first iteration. -/
theorem steps_to_resetAndLoaded (lo hi : Byte) :
    ∃ s₁ s₂ : State,
      step { State.reset with hostOps := [.load 0xFFFD lo, .load 0xFFFE hi, .run] } = .next s₁ ∧
      step s₁ = .next s₂ ∧ step s₂ = .next (resetAndLoaded lo hi) :=
  ⟨{ State.reset with mem := State.reset.mem.write 0xFFFD lo, hostOps := [.load 0xFFFE hi, .run] },
    { State.reset with mem := (State.reset.mem.write 0xFFFD lo).write 0xFFFE hi, hostOps := [.run] },
    step_load rfl rfl, step_load rfl rfl, step_of_hostOps_cons (op := .run) rfl rfl⟩

/-- Settles O51: the host's three operations start a run whose first iteration decodes the seed and the two loaded bytes, and
the meaning of that `JMP` sets PC to the word they make. -/
theorem firstIterationJumpsToTheEntryAddress : Obligations.FirstIterationJumpsToTheEntryAddress := by
  intro lo hi
  obtain ⟨s₁, s₂, hload, hload', hrun⟩ := steps_to_resetAndLoaded lo hi
  have hjump : step (resetAndLoaded lo hi) = .next ((Instr.jmpAbs lo hi).effect _) :=
    (step_of_decoded ⟨rfl, rfl⟩ (decode_resetAndLoaded lo hi)).trans (exec_eq_effect _ _)
  exact ⟨s₁, s₂, _, _, hload, hload', hrun, hjump, word_toNat hi lo, rfl, rfl, rfl, rfl, resetAndLoaded_read lo hi⟩

end Sys2Proof
end
